-- ==== Sys2Proof/Word.lean ====
section
/-! DEFINITION. The word types of SHA256-CE: the 32-bit register and arithmetic word (00_scope.md rule R10), the byte
of a message, the 8-bit offset in the register window (20_memory.md rule R81) and the 41-bit transaction word T
(30_encoding.md rule R110). Every value is unsigned (R12). -/

namespace Sys2Proof

/-- A 32-bit word, added modulo 2^32 (R10, R13). -/
abbrev Word := BitVec 32

/-- A byte of a message or a block (R85). -/
abbrev Byte := BitVec 8

/-- A byte offset ADDR[7:0] in the register window (R81). -/
abbrev Offset := BitVec 8

/-- The 41-bit transaction word T = {WE, ADDR[7:0], DATA[31:0]} (R110). -/
abbrev Txn := BitVec 41

end Sys2Proof
end

