-- ==== Sys2Proof/Config.lean ====
section
/-! DEFINITION. What the spec leaves to the platform, the implementation or the schedule. Every constant here is
opaque, with no body: nothing in Lean can evaluate it or prove a value of it, so a claim holds whatever it is. -/

namespace Sys2Proof

/-- The n-th free 32-bit value: the content of a register the spec calls unspecified (00_scope.md rule R15; MSG after
COMPRESS, R33 and R236; a..h, W and MSG after the reset event, R320). Log 2 and 3. -/
opaque Config.freeWord : Nat → Word

/-- How many turns the host has before the next engine step, at the n-th choice that the state's schedule does not
settle (20_memory.md rule R94, 42_host_interface.md rule R233). It is any number, but a number: this is R341's weak
fairness. Log 4 and 5. -/
opaque Config.hostLead : Nat → Nat

/-- ENGINE_BASE, the window's base address on the platform bus (R81, D24). Log 16. -/
opaque Config.engineBase : Nat

/-- CYCLES_PER_STEP, the clock cycles of one engine step (R341, D22). No rule reads it and no definition here does.
Log 15. -/
opaque Config.cyclesPerStep : Nat

/-- The platform's byte-lane mapping: the data word made of the four bytes a byte-addressed bus carries, lowest
address first (R84, D17). Log 16. -/
opaque Config.laneWord : Byte → Byte → Byte → Byte → Word

/-- N_ENGINES, the number of engine instances this spec describes (R11, R311, D23). -/
def Config.nEngines : Nat := 1

end Sys2Proof
end

