-- ==== Sys2Proof/Syntax.lean ====
section
/-! DEFINITION. The syntax of SHA256-CE: the nine named transactions of the opcode table (30_encoding.md rule R115), the
registers of the window (10_state.md rule R47), the fault causes (60_exceptions.md rule R283), and the lines of a host
program (30_encoding.md rules R119 to R124). -/

namespace Sys2Proof

/-- R115: the named transactions, one constructor per row of the opcode table. A read has no data operand: two reads
that differ only in DATA are one transaction (R117). The index operands take exactly the values of R113. -/
inductive Instr where
  /-- CTRL <- 0x00000000 (R234). -/
  | nop
  /-- CTRL <- 0x00000001 (R235). -/
  | init
  /-- CTRL <- 0x00000002 (R236). -/
  | compress
  /-- MSG<i> <- d (R237). -/
  | wmsg (i : Fin 16) (d : Word)
  /-- Read STATUS (R238). -/
  | rdstatus
  /-- Read BLKCNT_LO (R239). -/
  | rdblklo
  /-- Read BLKCNT_HI (R240). -/
  | rdblkhi
  /-- Read FAULTINFO (R241). -/
  | rdfinfo
  /-- Read H<i> (R242). -/
  | rdh (i : Fin 8)
  deriving DecidableEq, Repr

/-- R47: the registers of the window. -/
inductive Reg where
  | ctrl
  | status
  | blkcntLo
  | blkcntHi
  | faultInfo
  | h (i : Fin 8)
  | msg (i : Fin 16)
  deriving DecidableEq, Repr

/-- R283: the fault causes. `none` is the value of CAUSE while FAULT = 0; the codes 6 to 15 are never raised and have
no constructor. -/
inductive Cause where
  | none
  | illegalCommand
  | incompleteBlock
  | unmapped
  | misaligned
  | accessDirection
  deriving DecidableEq, Repr

/-- R119 to R124: a line of a host program, as an assembler reads it, its numbers not yet checked (WellFormed.lean). -/
inductive AsmLine where
  | nop
  | init
  | compress
  | wmsg (i word : Nat)
  | rdstatus
  | rdblklo
  | rdblkhi
  | rdfinfo
  | rdh (i : Nat)
  /-- R120: the write transaction with ADDR = off and DATA = word. -/
  | wr (off word : Nat)
  /-- R120: the read transaction with ADDR = off and DATA = 0. -/
  | rd (off : Nat)
  /-- R121: LDBLK B[0..63]. -/
  | ldblk (bytes : List Byte)
  /-- R122. -/
  | waitidle
  /-- R123. -/
  | rddigest
  /-- R124: HASH msg. -/
  | hash (message : List Byte)
  deriving DecidableEq, Repr

end Sys2Proof
end

