-- ==== Sys2Proof/WellFormed.lean ====
section
/-! DEFINITION. Well-formedness. The bounds of an Instr's operands are in its type (Fin 16, Fin 8, a 32-bit word), so
every Instr is well formed. What can be ill formed is what comes from outside: a number offered as a transaction word
T, and a line of a host program. -/

namespace Sys2Proof

/-- R110: a number is a transaction word when it fits in the 41 bits of T. -/
def txnFits (w : Nat) : Bool := decide (w < 2 ^ 41)

/-- R119 to R121: the ranges the assembler syntax gives its operands. -/
def AsmLine.wf : AsmLine → Bool
  | .nop | .init | .compress | .rdstatus | .rdblklo | .rdblkhi | .rdfinfo => true
  | .wmsg i word => decide (i ≤ 15) && decide (word < 2 ^ 32)
  | .rdh i => decide (i ≤ 7)
  | .wr off word => decide (off ≤ 255) && decide (word < 2 ^ 32)
  | .rd off => decide (off ≤ 255)
  | .ldblk bytes => decide (bytes.length = 64)
  | .waitidle | .rddigest | .hash _ => true

end Sys2Proof
end

