-- ==== Sys2Proof/Decode.lean ====
section
/-! DEFINITION. The decoder, total on every transaction word (30_encoding.md rule R114), and after it the encoder and
the opcode table of R115. Decode reads no state (R114). -/

namespace Sys2Proof

/-- R110: WE = T[40]. -/
def Txn.we (t : Txn) : Bool := t.getLsbD 40

/-- R110: ADDR = T[39:32]. -/
def Txn.addr (t : Txn) : Offset := t.extractLsb' 32 8

/-- R110: DATA = T[31:0]. -/
def Txn.data (t : Txn) : Word := t.extractLsb' 0 32

/-- R110: T = {WE, ADDR, DATA}. -/
def txnOf (we : Bool) (addr : Offset) (data : Word) : Txn := BitVec.ofBool we ++ addr ++ data

/-- R114: zext_32({WE, ADDR}), the FAULTINFO of the three address faults. -/
def accessInfo (we : Bool) (addr : Offset) : Word := (BitVec.ofBool we ++ addr).setWidth 32

/-- R283: the 4-bit code of a cause. -/
def Cause.code : Cause → BitVec 4
  | .none => 0
  | .illegalCommand => 1
  | .incompleteBlock => 2
  | .unmapped => 3
  | .misaligned => 4
  | .accessDirection => 5

/-- R113: the index i of MSG<i>, ADDR[5:2]. -/
def msgIndex (addr : Offset) : Fin 16 := (addr.extractLsb' 2 4).toFin

/-- R113: the index i of H<i>, ADDR[4:2]. -/
def digestIndex (addr : Offset) : Fin 8 := (addr.extractLsb' 2 3).toFin

/-- R47: the register at an aligned offset, none where the offset is unmapped. -/
def regAt (addr : Offset) : Option Reg :=
  if addr = 0x00 then some .ctrl
  else if addr = 0x04 then some .status
  else if addr = 0x08 then some .blkcntLo
  else if addr = 0x0C then some .blkcntHi
  else if addr = 0x10 then some .faultInfo
  else if addr.extractLsb' 5 3 = 0b001 then some (.h (digestIndex addr))
  else if addr.extractLsb' 6 2 = 0b01 then some (.msg (msgIndex addr))
  else none

/-- R47: a register that is read-only. -/
def Reg.readOnly : Reg → Bool
  | .status | .blkcntLo | .blkcntHi | .faultInfo | .h _ => true
  | .ctrl | .msg _ => false

/-- R114: what a transaction word decodes to, a named transaction or one fault class. -/
inductive Decoded where
  | instr (i : Instr)
  | fault (cause : Cause) (info : Word)
  deriving DecidableEq, Repr

/-- R112: the command word, the DATA of a write to CTRL. -/
def decodeCommand (data : Word) : Decoded :=
  if data.extractLsb' 4 28 ≠ 0 ∨ 3 ≤ (data.extractLsb' 0 4).toNat then .fault .illegalCommand data
  else if data.extractLsb' 0 4 = 0 then .instr .nop
  else if data.extractLsb' 0 4 = 1 then .instr .init
  else .instr .compress

/-- R114: a read of a register. -/
def decodeRead (addr : Offset) : Reg → Decoded
  | .status => .instr .rdstatus
  | .blkcntLo => .instr .rdblklo
  | .blkcntHi => .instr .rdblkhi
  | .faultInfo => .instr .rdfinfo
  | .h i => .instr (.rdh i)
  | .ctrl | .msg _ => .fault .accessDirection (accessInfo false addr)

/-- R114: a write to a register. -/
def decodeWrite (addr : Offset) (data : Word) : Reg → Decoded
  | .ctrl => decodeCommand data
  | .msg i => .instr (.wmsg i data)
  | .status | .blkcntLo | .blkcntHi | .faultInfo | .h _ => .fault .accessDirection (accessInfo true addr)

/-- R114: Decode(T), the checks in R114's order. -/
def decode (t : Txn) : Decoded :=
  if t.addr.extractLsb' 0 2 ≠ 0 then .fault .misaligned (accessInfo t.we t.addr)
  else match regAt t.addr with
    | none => .fault .unmapped (accessInfo t.we t.addr)
    | some r => if t.we then decodeWrite t.addr t.data r else decodeRead t.addr r

/-- The host's numbering of a table row's word: its bits above nbits are 0. -/
def tableTxn (nbits w : Nat) : Txn := BitVec.ofNat 41 (w % 2 ^ nbits)

/-- The instruction the decoder reads from a table word. T is one 41-bit word with bit 0 the least significant bit of
DATA (R110, R12), which is the table's own numbering; a number that does not fit in 41 bits is no T. Log 17. -/
def decodeTableWord (nbits w : Nat) : Option Instr :=
  if txnFits (w % 2 ^ nbits) then
    match decode (tableTxn nbits w) with
    | .instr i => some i
    | .fault _ _ => none
  else none

/-- R115: the offset of MSG<i>, 0b01iiii00. -/
def msgOffset (i : Fin 16) : Offset := (0b01 : BitVec 2) ++ BitVec.ofFin (w := 4) i ++ (0b00 : BitVec 2)

/-- R115: the offset of H<i>, 0b001hhh00. -/
def digestOffset (i : Fin 8) : Offset := (0b001 : BitVec 3) ++ BitVec.ofFin (w := 3) i ++ (0b00 : BitVec 2)

/-- R115 and R119: the transaction word of a named transaction; a read is written with DATA = 0 (R117). -/
def encode : Instr → Txn
  | .nop => txnOf true 0x00 0
  | .init => txnOf true 0x00 1
  | .compress => txnOf true 0x00 2
  | .wmsg i d => txnOf true (msgOffset i) d
  | .rdstatus => txnOf false 0x04 0
  | .rdblklo => txnOf false 0x08 0
  | .rdblkhi => txnOf false 0x0C 0
  | .rdfinfo => txnOf false 0x10 0
  | .rdh i => txnOf false (digestOffset i) 0

/-- R114: a named transaction that writes (WE = 1). -/
def Instr.isWrite : Instr → Bool
  | .nop | .init | .compress | .wmsg _ _ => true
  | .rdstatus | .rdblklo | .rdblkhi | .rdfinfo | .rdh _ => false

/-- R117: T with the DATA of a read set to 0, the word a transcriber writes. -/
def Txn.canonical (t : Txn) : Txn := txnOf t.we t.addr (if t.we then t.data else 0)

/-- A row of R115's opcode map: the words T with T AND mask = value. -/
structure OpcodeRow where
  mask : Txn
  value : Txn
  deriving DecidableEq, Repr

/-- R115: T matches a row. -/
def OpcodeRow.selects (r : OpcodeRow) (t : Txn) : Bool := t &&& r.mask == r.value

/-- R115: the row of a named transaction, its mask and match copied from the opcode map. -/
def Instr.row : Instr → OpcodeRow
  | .nop => ⟨0x1ffffffffff, 0x10000000000⟩
  | .init => ⟨0x1ffffffffff, 0x10000000001⟩
  | .compress => ⟨0x1ffffffffff, 0x10000000002⟩
  | .wmsg _ _ => ⟨0x1c300000000, 0x14000000000⟩
  | .rdstatus => ⟨0x1ff00000000, 0x00400000000⟩
  | .rdblklo => ⟨0x1ff00000000, 0x00800000000⟩
  | .rdblkhi => ⟨0x1ff00000000, 0x00c00000000⟩
  | .rdfinfo => ⟨0x1ff00000000, 0x01000000000⟩
  | .rdh _ => ⟨0x1e300000000, 0x02000000000⟩

/-- R115: the nine rows of the opcode map, in its order. -/
def opcodeRows : List OpcodeRow :=
  [Instr.row .nop, Instr.row .init, Instr.row .compress, Instr.row (.wmsg 0 0), Instr.row .rdstatus,
   Instr.row .rdblklo, Instr.row .rdblkhi, Instr.row .rdfinfo, Instr.row (.rdh 0)]

/-- R231: T matches the row RDSTATUS, whatever its DATA. -/
def isRdStatus (t : Txn) : Bool := (Instr.row .rdstatus).selects t

end Sys2Proof
end

