-- ==== Sys2Proof/Machine/Mix.lean ====
section
/-! DEFINITION. The word operators and the six mixing functions (00_scope.md rule R13, 41_compression.md rules R179
to R185). Addition is BitVec's, which is addition modulo 2^32 with the carry dropped (R179). -/

namespace Sys2Proof.Machine

/-- R13: circular right rotation. The rules use only the amounts 2 to 25, so what this gives at 32 or more is never
reached (93_implementation_defined.md row 24, log 18); at 0 it gives x, as R13 says. -/
def rotr (x : Word) (n : Nat) : Word := (x >>> n) ||| (x <<< (32 - n))

/-- R13: logical right shift, zero-filled at the top. -/
def shr (x : Word) (n : Nat) : Word := x >>> n

/-- R180: each bit of x chooses the bit of y (1) or of z (0). -/
def ch (x y z : Word) : Word := (x &&& y) ^^^ (~~~x &&& z)

/-- The form of R182 and R183: three rotations of one word, combined by XOR. -/
def mixRotations (p q r : Nat) (x : Word) : Word := rotr x p ^^^ rotr x q ^^^ rotr x r

/-- R182: BSIG0, PM256's capital sigma 0. -/
def bsig0 : Word → Word := mixRotations 2 13 22

/-- R183: BSIG1, PM256's capital sigma 1. -/
def bsig1 : Word → Word := mixRotations 6 11 25

/-- The form of R184 and R185: two rotations and a shift, not a rotation, of one word. -/
def mixRotationsShift (p q s : Nat) (x : Word) : Word := rotr x p ^^^ rotr x q ^^^ shr x s

/-- R184: SSIG0, PM256's small sigma 0. -/
def ssig0 : Word → Word := mixRotationsShift 7 18 3

/-- R185: SSIG1, PM256's small sigma 1. -/
def ssig1 : Word → Word := mixRotationsShift 17 19 10

/-- R181: bitwise majority. -/
def maj (x y z : Word) : Word := (x &&& y) ^^^ (x &&& z) ^^^ (y &&& z)

end Sys2Proof.Machine
end

