-- ==== Sys2Proof/Machine/Compression.lean ====
section
/-! DEFINITION. The compression function as pure functions of words (41_compression.md rules R186 to R197): the message
schedule, the round, the fold, C and the chaining over blocks. When the engine performs each part is said in
Machine/Commands.lean and Machine/Engine.lean, over these same definitions. -/

namespace Sys2Proof.Machine

/-- R32: the eight working registers a..h. -/
structure WorkRegs where
  a : Word
  b : Word
  c : Word
  d : Word
  e : Word
  f : Word
  g : Word
  h : Word
  deriving DecidableEq, Repr

/-- The block's sixteen message words (R33), the digest state (R31) and the message schedule (R35). -/
abbrev MsgWords := Vector Word 16

/-- R31: eight digest words H[0..7]. -/
abbrev Digest := Vector Word 8

/-- R35: the 64-entry architectural view of the schedule. -/
abbrev Schedule := Vector Word 64

/-- R189: the working registers loaded from the digest state. -/
def WorkRegs.ofDigest (h : Digest) : WorkRegs :=
  { a := h[0], b := h[1], c := h[2], d := h[3], e := h[4], f := h[5], g := h[6], h := h[7] }

/-- R32: the index form WR[0..7] = (a, b, c, d, e, f, g, h). -/
def WorkRegs.toVec (r : WorkRegs) : Vector Word 8 := #v[r.a, r.b, r.c, r.d, r.e, r.f, r.g, r.h]

/-- W[j] for a 6-bit round number, which always lies in the array. -/
def wAt (w : Schedule) (j : BitVec 6) : Word := w[j.toNat]'j.isLt

/-- R186: W[0..15] <- MSG[0..15]; the other entries stay as they are. -/
def loadSchedule (m : MsgWords) (w : Schedule) : Schedule :=
  Vector.ofFn fun t : Fin 64 => if ht : t.val < 16 then m[t.val] else w[t.val]

/-- R187: the schedule word W[j], from the words before it. The rule is for 16 ≤ j ≤ 63; the four indices then do
not wrap. -/
def scheduleWord (w : Schedule) (j : BitVec 6) : Word :=
  ssig1 (wAt w (j - 2)) + wAt w (j - 7) + ssig0 (wAt w (j - 15)) + wAt w (j - 16)

/-- R187 in round j's step (R250): W[j] is written when j ≥ 16, and W is left alone before that. -/
def expandSchedule (w : Schedule) (j : BitVec 6) : Schedule :=
  if 16 ≤ j.toNat then w.set j.toNat (scheduleWord w j) j.isLt else w

/-- R190: T1 of round j. -/
def temp1 (j : BitVec 6) (r : WorkRegs) (wj : Word) : Word := r.h + bsig1 r.e + ch r.e r.f r.g + kAt j + wj

/-- R190: T2 of a round. -/
def temp2 (r : WorkRegs) : Word := bsig0 r.a + maj r.a r.b r.c

/-- R190: Round(j, WR, Wj), one simultaneous assignment of the eight registers. -/
def applyRound (j : BitVec 6) (r : WorkRegs) (wj : Word) : WorkRegs :=
  { a := temp1 j r wj + temp2 r, b := r.a, c := r.b, d := r.c, e := r.d + temp1 j r wj, f := r.e, g := r.f, h := r.g }

/-- R192: H[i] + WR[i], each sum wrapping on its own. -/
def applyFold (h : Digest) (r : WorkRegs) : Digest := Vector.ofFn fun i : Fin 8 => h[i] + r.toVec[i]

/-- R186 and then R187 for j = 16, 17, ..., 15 + n. -/
def schedUpTo (m : MsgWords) : Nat → Schedule
  | 0 => loadSchedule m (Vector.replicate 64 0)
  | n + 1 => expandSchedule (schedUpTo m n) (BitVec.ofNat 6 (16 + n))

/-- R188: Sched(MSG) = W[0..63], from the sixteen words alone. -/
def sched (m : MsgWords) : Schedule := schedUpTo m 48

/-- R191: rounds 0, 1, ..., n - 1 in that order, each reading what the one before wrote. -/
def roundsUpTo (w : Schedule) (r : WorkRegs) : Nat → WorkRegs
  | 0 => r
  | n + 1 => applyRound (BitVec.ofNat 6 n) (roundsUpTo w r n) (wAt w (BitVec.ofNat 6 n))

/-- R193: the compression function C(Hin, MSG), total on every input. -/
def compressBlock (hin : Digest) (m : MsgWords) : Digest :=
  applyFold hin (roundsUpTo (sched m) (WorkRegs.ofDigest hin) 64)

/-- R194: H_N from a given H_0 over a block sequence, in order. -/
def chain : Digest → List MsgWords → Digest
  | h, [] => h
  | h, m :: ms => chain (compressBlock h m) ms

/-- R194: the digest of a block sequence, from the IV. -/
def digestOf (blocks : List MsgWords) : Digest := chain iv blocks

/-- R35 and R187: a sliding window of the sixteen most recent words W[n..n+15], oldest first. One slide drops the
oldest and appends the next schedule word. -/
def slideWindow (v : MsgWords) : MsgWords :=
  Vector.ofFn fun i : Fin 16 =>
    if h : i.val + 1 < 16 then v[i.val + 1] else ssig1 v[14] + v[9] + ssig0 v[1] + v[0]

/-- The window after n slides from the message words. -/
def windowUpTo (m : MsgWords) : Nat → MsgWords
  | 0 => m
  | n + 1 => slideWindow (windowUpTo m n)

end Sys2Proof.Machine
end

