-- ==== Sys2Proof/Machine/State.lean ====
section
/-! DEFINITION. The state of one SHA256-CE instance (10_state.md), with the host port, the two output streams, and the
environment's inputs as plain data; the reasons a step can stop; and the state right after reset. -/

namespace Sys2Proof.Machine

/-- R36: the phase of the sequencer. The encoding 0b11 has no constructor: it never occurs. -/
inductive Phase where
  /-- No block in progress. -/
  | idle
  /-- Rounds are in progress; RND is the next round. -/
  | run
  /-- All 64 rounds are done; the fold is next. -/
  | fold
  deriving DecidableEq, Repr

/-- R111: the response to a transaction. -/
inductive Resp where
  /-- OK(v), a read's answer. -/
  | okData (v : Word)
  /-- OK, a write's answer. -/
  | ok
  /-- ERR, which carries no data. -/
  | err
  deriving DecidableEq, Repr

/-- R301: the typed records of the trace port. -/
inductive Snap where
  /-- The working registers after round `round` of block `blk`. -/
  | roundSnap (blk : BitVec 64) (round : BitVec 6) (regs : WorkRegs)
  /-- The digest state after the fold of block `blk`. -/
  | blockSnap (blk : BitVec 64) (digest : Digest)
  deriving DecidableEq, Repr

/-- What the host does next, in the order of its program (R38: the host's program is the host's own). -/
inductive HostOp where
  /-- Issue this transaction and wait for its answer (R230). -/
  | txn (t : Txn)
  /-- R122: WAITIDLE, a polling loop of RDSTATUS. -/
  | waitIdle
  /-- The foot of that loop: go round again if the last answer had bit 0 set (R122). -/
  | loopIfBusy
  deriving DecidableEq, Repr

/-- Who moves in a step, where the spec leaves it open (R233, R94, R322). An agent that is not enabled lets the others
move (Machine/Port.lean). -/
inductive Turn where
  /-- The host step comes first. -/
  | host
  /-- The engine step comes first. -/
  | engine
  /-- The host only puts its next transaction on the port. -/
  | issue
  /-- Reset is asserted (R320). -/
  | reset
  deriving DecidableEq, Repr

/-- A step that stops the machine. SHA256-CE's own faults (R280) are no stop: they are the fault record of State and an
ERR answer, in a next state. -/
inductive Fault where
  /-- Raised by `step` when something other than reset and other than a transaction would move before the first reset
  after power-up: all state is unspecified there (R314, R330). Safe: nothing can be proved of such a step. Log 8. -/
  | engineBeforeReset
  deriving DecidableEq, Repr

/-- A refusal to give a step a meaning. -/
inductive Refusal where
  /-- An instruction with no meaning yet, raised by an arm of `exec`. Safe. No arm raises it now. -/
  | notModelled (mnemonic : String)
  /-- Raised by `step` for a transaction before the first reset after power-up, which the spec has a model refuse
  (93_implementation_defined.md row 8). Safe. Log 8. -/
  | transactionBeforeReset
  deriving DecidableEq, Repr

/-- The state. INVENTORY.md lists each field with its rule and its reset value. -/
structure State where
  /-- R31: the digest state H[0..7]. -/
  h : Digest
  /-- R32: the working registers a..h. -/
  wr : WorkRegs
  /-- R33: the message buffer MSG[0..15]. -/
  msg : MsgWords
  /-- R34: MSGVALID, bit i set when MSG[i] has been written. -/
  msgValid : BitVec 16
  /-- R35: the message schedule W[0..63]. -/
  w : Schedule
  /-- R36: PHASE. -/
  phase : Phase
  /-- R37: RND, the round counter. -/
  rnd : BitVec 6
  /-- R39: FAULT, the sticky flag. -/
  fault : Bool
  /-- R40: CAUSE. -/
  cause : Cause
  /-- R41: BLKCNT. -/
  blkcnt : BitVec 64
  /-- R42: FAULTINFO. -/
  faultInfo : Word
  /-- R43: the transaction issued and not yet answered. -/
  pending : Option Txn
  /-- R55, R300: the trace port's records so far, oldest first. -/
  trace : List Snap
  /-- R111, R254: the answers given to the host so far, oldest first. -/
  responses : List Resp
  /-- R314, R330: reset has been applied since power-up. -/
  booted : Bool
  /-- The model's own: what the host will do, first first. Log 6. -/
  program : List HostOp
  /-- The model's own: who moves in the steps to come, first first. Log 4 and 5. -/
  sched : List Turn
  /-- The model's own: how many turns the host still has before the next engine step, once that free value has been
  taken. Log 4 and 5. -/
  lead : Option Nat
  /-- The model's own: the index of the next free value. Log 2, 3 and 4. -/
  free : Nat
  deriving DecidableEq, Repr

/-- R54: the state right after reset. The spec leaves a..h, MSG and W unspecified; their zeros are the model's DESIGN
CHOICE (log 1). The host has issued nothing and plans nothing (log 6). -/
def State.reset : State where
  h := iv
  wr := { a := 0, b := 0, c := 0, d := 0, e := 0, f := 0, g := 0, h := 0 }
  msg := Vector.replicate 16 0
  msgValid := 0
  w := Vector.replicate 64 0
  phase := .idle
  rnd := 0
  fault := false
  cause := .none
  blkcnt := 0
  faultInfo := 0
  pending := none
  trace := []
  responses := []
  booted := true
  program := []
  sched := []
  lead := none
  free := 0

end Sys2Proof.Machine
end

