-- ==== Sys2Proof/Machine/Flags.lean ====
section
/-! DEFINITION. The status fields: BUSY, the codes of PHASE and CAUSE, MSGVALID, and the STATUS word they make
(10_state.md rules R34, R36, R48 and R52). SHA256-CE has no arithmetic flag (R52). -/

namespace Sys2Proof.Machine

/-- R36: the two bits of PHASE in STATUS. -/
def Phase.code : Phase → BitVec 2
  | .idle => 0b00
  | .run => 0b01
  | .fold => 0b10

/-- R48: BUSY is 1 when PHASE ≠ IDLE. -/
def State.busy (s : State) : Bool := s.phase != .idle

/-- R34: MSGVALID with bit i set. -/
def setValid (mask : BitVec 16) (i : Fin 16) : BitVec 16 := mask ||| ((1 : BitVec 16) <<< i.val)

/-- R34, R236: every word of the block has been written. -/
def State.blockComplete (s : State) : Bool := s.msgValid == 0xFFFF

/-- R48: STATUS = {MSGVALID[15:0], PHASE[1:0], RND[5:0], CAUSE[3:0], 0b00, FAULT, BUSY}. -/
def State.status (s : State) : Word :=
  s.msgValid ++ s.phase.code ++ s.rnd ++ s.cause.code ++ (0b00 : BitVec 2) ++ BitVec.ofBool s.fault
    ++ BitVec.ofBool s.busy

end Sys2Proof.Machine
end

