-- ==== Sys2Proof/Machine/Operands.lean ====
section
/-! DEFINITION. The registers an operand names (30_encoding.md rule R113): the digest word a read takes, the halves of
BLKCNT, and the message word a write sets. -/

namespace Sys2Proof.Machine

/-- R242: H[i]. -/
def State.digestWord (s : State) (i : Fin 8) : Word := s.h[i]

/-- R239: BLKCNT[31:0]. -/
def State.blkLo (s : State) : Word := s.blkcnt.extractLsb' 0 32

/-- R240: BLKCNT[63:32]. -/
def State.blkHi (s : State) : Word := s.blkcnt.extractLsb' 32 32

/-- R237: MSG[i] <- d. -/
def setMsg (m : MsgWords) (i : Fin 16) (d : Word) : MsgWords := m.set i d

end Sys2Proof.Machine
end

