-- ==== Sys2Proof/Machine/Ops.lean ====
section
/-! DEFINITION. The operations every transaction is made of: answering, holding, raising a fault (the one way into the
faulted state, 60_exceptions.md rule R282) and reset (the one way out of it, 70_reset_and_hazards.md rule R320). -/

namespace Sys2Proof.Machine

/-- R14, R111: the transaction on the port is completed with this answer. -/
def State.respond (r : Resp) (s : State) : State :=
  { s with pending := none, responses := s.responses ++ [r] }

/-- R14, R231: the transaction is not accepted in this step. It stays on the port, and nothing happens. -/
def State.hold (s : State) : State := s

/-- R282: the fault record, written by the first fault since reset and by no later one. -/
def State.recordFault (c : Cause) (info : Word) (s : State) : State :=
  if s.fault then s else { s with fault := true, cause := c, faultInfo := info }

/-- R282: raise Fault(cause, info). The transaction is answered ERR, and nothing but the record changes (R281). -/
def State.raiseFault (c : Cause) (info : Word) (s : State) : State := (s.recordFault c info).respond .err

/-- R231, R232: a write is held while PHASE ≠ IDLE, answered ERR without effect while FAULT = 1, and otherwise has its
effect. -/
def State.acceptWrite (effect : State → State) (s : State) : State :=
  if s.busy then s.hold else if s.fault then s.respond .err else effect s

/-- R231, R286: a read but RDSTATUS is held while PHASE ≠ IDLE, and otherwise answered OK(v), FAULT or not. -/
def State.acceptRead (v : State → Word) (s : State) : State :=
  if s.busy then s.hold else s.respond (.okData (v s))

/-- n free words from index k on (R15). -/
def freeWords (n k : Nat) : Vector Word n := Vector.ofFn fun i : Fin n => Config.freeWord (k + i)

/-- R33, R236: MSG becomes unspecified: sixteen free values. -/
def State.forgetMsg (s : State) : State := { s with msg := freeWords 16 s.free, free := s.free + 16 }

/-- R320, R322: reset, one atomic step. A transaction on the port is answered ERR with no fault recorded. The trace and
the answers given stay (R54, R302); a..h, W and MSG become free values (log 3); the host goes on with its program
(log 6). -/
def State.resetEvent (s : State) : State :=
  { h := iv
    wr := WorkRegs.ofDigest (freeWords 8 s.free)
    msg := freeWords 16 (s.free + 8)
    msgValid := 0
    w := freeWords 64 (s.free + 24)
    phase := .idle
    rnd := 0
    fault := false
    cause := .none
    blkcnt := 0
    faultInfo := 0
    pending := none
    trace := s.trace
    responses := if s.pending.isSome then s.responses ++ [.err] else s.responses
    booted := true
    program := s.program
    sched := s.sched
    lead := none
    free := s.free + 88 }

end Sys2Proof.Machine
end

