-- ==== Sys2Proof/Machine/Commands.lean ====
section
/-! DEFINITION. The commands, written to CTRL: NOP, INIT and COMPRESS (42_host_interface.md rules R234 to R236). -/

namespace Sys2Proof.Machine

/-- R234: NOP answers OK and does nothing else. -/
def execNop (s : State) : Host.Outcome State Fault Refusal :=
  .next (s.acceptWrite (fun s => s.respond .ok))

/-- R235: H <- IV, BLKCNT <- 0, MSGVALID <- 0. -/
def State.initDigest (s : State) : State := { s with h := iv, blkcnt := 0, msgValid := 0 }

/-- R235: INIT. -/
def execInit (s : State) : Host.Outcome State Fault Refusal :=
  .next (s.acceptWrite (fun s => s.initDigest.respond .ok))

/-- R236: the acceptance of a complete block: the schedule and the working registers are loaded, MSGVALID is cleared,
MSG becomes unspecified (log 2) and the rounds begin. -/
def State.startBlock (s : State) : State :=
  { s.forgetMsg with
    w := loadSchedule s.msg s.w
    wr := WorkRegs.ofDigest s.h
    msgValid := 0
    rnd := 0
    phase := .run }

/-- R236: COMPRESS, with INCOMPLETE_BLOCK (R284) when a word of the block has not been written. -/
def execCompress (s : State) : Host.Outcome State Fault Refusal :=
  .next (s.acceptWrite fun s =>
    if s.blockComplete then s.startBlock.respond .ok
    else s.raiseFault .incompleteBlock (s.msgValid.setWidth 32))

end Sys2Proof.Machine
end

