-- ==== Sys2Proof/Machine/Message.lean ====
section
/-! DEFINITION. The message writes: WMSG (42_host_interface.md rule R237). -/

namespace Sys2Proof.Machine

/-- R237: MSG[i] <- d and MSGVALID[i] <- 1. -/
def State.writeMsg (i : Fin 16) (d : Word) (s : State) : State :=
  { s with msg := setMsg s.msg i d, msgValid := setValid s.msgValid i }

/-- R237: WMSG i, d. -/
def execWmsg (i : Fin 16) (d : Word) (s : State) : Host.Outcome State Fault Refusal :=
  .next (s.acceptWrite fun s => (s.writeMsg i d).respond .ok)

end Sys2Proof.Machine
end

