-- ==== Sys2Proof/Machine/Reads.lean ====
section
/-! DEFINITION. The reads: STATUS, the halves of BLKCNT, FAULTINFO and the digest words (42_host_interface.md rules R238
to R242). No read has a side effect (20_memory.md rule R90). -/

namespace Sys2Proof.Machine

/-- R238: RDSTATUS, the one transaction accepted in every phase. -/
def execRdstatus (s : State) : Host.Outcome State Fault Refusal := .next (s.respond (.okData s.status))

/-- R239: RDBLKLO. -/
def execRdblklo (s : State) : Host.Outcome State Fault Refusal := .next (s.acceptRead State.blkLo)

/-- R240: RDBLKHI. -/
def execRdblkhi (s : State) : Host.Outcome State Fault Refusal := .next (s.acceptRead State.blkHi)

/-- R241: RDFINFO. -/
def execRdfinfo (s : State) : Host.Outcome State Fault Refusal := .next (s.acceptRead State.faultInfo)

/-- R242: RDH i. -/
def execRdh (i : Fin 8) (s : State) : Host.Outcome State Fault Refusal :=
  .next (s.acceptRead fun s => s.digestWord i)

end Sys2Proof.Machine
end

