-- ==== Sys2Proof/Machine/Dispatch.lean ====
section
/-! DEFINITION. The dispatch: one arm per named transaction (30_encoding.md rule R115). -/

namespace Sys2Proof.Machine

def exec (i : Instr) (s : State) : Host.Outcome State Fault Refusal :=
  match i with
  | .nop => Sys2Proof.Machine.execNop s
  | .init => Sys2Proof.Machine.execInit s
  | .compress => Sys2Proof.Machine.execCompress s
  | .wmsg k d => Sys2Proof.Machine.execWmsg k d s
  | .rdstatus => Sys2Proof.Machine.execRdstatus s
  | .rdblklo => Sys2Proof.Machine.execRdblklo s
  | .rdblkhi => Sys2Proof.Machine.execRdblkhi s
  | .rdfinfo => Sys2Proof.Machine.execRdfinfo s
  | .rdh k => Sys2Proof.Machine.execRdh k s

end Sys2Proof.Machine
end

