-- ==== Sys2Proof/Machine/Engine.lean ====
section
/-! DEFINITION. The engine's own steps: the round (42_host_interface.md rule R250) and the fold (R251), each of which
emits one trace record (60_exceptions.md rule R300). -/

namespace Sys2Proof.Machine

/-- R250: the round step, for PHASE = RUN. The schedule word is written first and the round reads it; every other read
sees the values from before the step. -/
def State.roundStep (s : State) : State :=
  let w' := expandSchedule s.w s.rnd
  let wr' := applyRound s.rnd s.wr (wAt w' s.rnd)
  { s with
    w := w'
    wr := wr'
    trace := s.trace ++ [.roundSnap s.blkcnt s.rnd wr']
    phase := if s.rnd = 63 then .fold else .run
    rnd := if s.rnd = 63 then 0 else s.rnd + 1 }

/-- R251: the fold step, for PHASE = FOLD. The record carries the block's own index, BLKCNT before it grows. -/
def State.foldStep (s : State) : State :=
  let h' := applyFold s.h s.wr
  { s with
    h := h'
    trace := s.trace ++ [.blockSnap s.blkcnt h']
    blkcnt := s.blkcnt + 1
    phase := .idle }

/-- R233, R252: the engine step of the phase. It is enabled exactly when PHASE ≠ IDLE; in IDLE there is none. -/
def State.engineStep (s : State) : State :=
  match s.phase with
  | .idle => s
  | .run => s.roundStep
  | .fold => s.foldStep

/-- n engine steps. -/
def State.engineSteps : Nat → State → State
  | 0, s => s
  | n + 1, s => engineSteps n s.engineStep

end Sys2Proof.Machine
end

