-- ==== Sys2Proof/Machine/Port.lean ====
section
/-! DEFINITION. The host port and who moves (42_host_interface.md rules R230 to R233 and R243): acceptance of a
transaction, the host's issuing of its next one, and the step that each turn of the schedule takes. -/

namespace Sys2Proof.Machine

/-- R232: HostAccept(T). A fault class of decode raises its fault; a named transaction runs its rule (its ERR answer
while FAULT = 1 and T[40] = 1 stands in the rule, Machine/Ops.lean). -/
def hostAccept (t : Txn) (s : State) : Host.Outcome State Fault Refusal :=
  match decode t with
  | .fault cause info => .next (s.raiseFault cause info)
  | .instr i => exec i s

/-- R231, R233: the transaction can be accepted: PHASE = IDLE, or it is RDSTATUS. -/
def State.accepts (s : State) (t : Txn) : Bool := !s.busy || isRdStatus t

/-- R243: HostStep(s, T) as one total function: Hold, or the acceptance. A held T is not decoded. -/
def hostStep (t : Txn) (s : State) : Host.Outcome State Fault Refusal :=
  if s.accepts t then hostAccept t s else .next s.hold

/-- R122: bit 0 of the last answer's data. An ERR carries no data and reads as 0 (R111; log 7). -/
def lastBusyBit (answers : List Resp) : Bool :=
  match answers.getLast? with
  | some (.okData v) => v.getLsbD 0
  | some .ok | some .err | none => false

/-- R230, R122: what the host issues next and the program after it, given the answers so far. WAITIDLE issues RDSTATUS
and stays at its loop's foot; the foot goes round again while the last answer says busy. -/
def nextIssue (answers : List Resp) : List HostOp → Option Txn × List HostOp
  | [] => (none, [])
  | .txn t :: rest => (some t, rest)
  | .waitIdle :: rest => (some (encode .rdstatus), .loopIfBusy :: rest)
  | .loopIfBusy :: rest =>
    if lastBusyBit answers then (some (encode .rdstatus), .loopIfBusy :: rest) else nextIssue answers rest

/-- R230: the host has something to issue and no transaction outstanding. -/
def State.canIssue (s : State) : Bool := s.pending.isNone && (nextIssue s.responses s.program).1.isSome

/-- R230: the host issues its next transaction when none is outstanding. -/
def State.issueNext (s : State) : State :=
  match s.pending with
  | some _ => s
  | none =>
    { s with
      pending := (nextIssue s.responses s.program).1
      program := (nextIssue s.responses s.program).2 }

/-- The host's turn (R233): it issues its next transaction if none is outstanding; the transaction on the port is
accepted if it can be; otherwise the engine moves if it can; otherwise nothing is enabled and nothing happens. -/
def hostTurn (s : State) : Host.Outcome State Fault Refusal :=
  match s.issueNext.pending with
  | some t => if s.issueNext.accepts t then hostStep t s.issueNext else .next s.issueNext.engineStep
  | none => .next s.issueNext.engineStep

/-- The engine's turn (R233): an engine step if one is enabled, and the host's turn otherwise. -/
def engineTurn (s : State) : Host.Outcome State Fault Refusal :=
  if s.busy then .next s.engineStep else hostTurn s

/-- The host only issues (R230, item 1); if it has nothing to issue, this is its ordinary turn. -/
def issueTurn (s : State) : Host.Outcome State Fault Refusal :=
  if s.canIssue then .next s.issueNext else hostTurn s

/-- R314, R330: before the first reset only reset has a meaning. A transaction is refused (93_implementation_defined.md
row 8); anything else stops the machine, since all its state is unspecified. Log 8. -/
def beforeReset (s : State) : Host.Outcome State Fault Refusal :=
  if s.issueNext.pending.isSome then .refused .transactionBeforeReset else .fault .engineBeforeReset

/-- How many turns the host has before the next engine step: the number already taken, or else a free value. -/
def State.hostLead (s : State) : Nat := s.lead.getD (Config.hostLead s.free)

/-- The turn the schedule gives, and the state with that turn used up. Where the schedule has run out and both a host
step and an engine step may be enabled, the host has a free number of turns and then the engine has one (R94, R233).
Every order in which the engine always comes again is given by some numbers, and no other order is: R341's weak
fairness (log 4 and 5). While PHASE = IDLE only the host can move. -/
def State.takeTurn (s : State) : Turn × State :=
  match s.sched with
  | t :: rest => (t, { s with sched := rest })
  | [] =>
    if s.busy then
      (if s.hostLead = 0 then .engine else .host,
        { s with lead := if s.hostLead = 0 then none else some (s.hostLead - 1), free := s.free + 1 })
    else (.host, s)

/-- The step a turn takes (R233). Reset takes precedence over the others (R320). -/
def runTurn (t : Turn) (s : State) : Host.Outcome State Fault Refusal :=
  match t with
  | .reset => .next s.resetEvent
  | .host => if s.booted then hostTurn s else beforeReset s
  | .engine => if s.booted then engineTurn s else beforeReset s
  | .issue => if s.booted then issueTurn s else beforeReset s

/-- The state with T put on the host port and the next turn given to the host, so that the next step offers T. R230 has
the host issue only while no transaction is outstanding, and gives no meaning to this on an occupied port. There T
replaces the outstanding transaction, which gets no answer: DESIGN CHOICE, log 6. -/
def State.offer (t : Txn) (s : State) : State := { s with pending := some t, sched := .host :: s.sched }

end Sys2Proof.Machine
end

