-- ==== Sys2Proof/Machine/Step.lean ====
section
/-! DEFINITION. One step of the machine (42_host_interface.md rule R233), and how an instruction is placed where the next
step takes it: on the host port. The engine fetches nothing (20_memory.md rule R80); log 6 says how a program comes to
run. -/

namespace Sys2Proof.Machine

/-- R233: the next step, of the agent whose turn it is. -/
def step (s : State) : Host.Outcome State Fault Refusal := runTurn s.takeTurn.1 s.takeTurn.2

/-- The instruction whose bits are w, offered on the host port for the very next step. A transaction already outstanding
is replaced and gets no answer (DESIGN CHOICE, State.offer). Log 6 and 17. -/
def State.withFetchWord (s : State) (nbits w : Nat) : State := s.offer (tableTxn nbits w)

end Sys2Proof.Machine
end

