-- ==== Sys2Proof/Machine/Platform.lean ====
section
/-! DEFINITION. The platform bus in front of the window (20_memory.md rules R80 to R84): the adapter that places the
window at ENGINE_BASE and turns an access of exactly 32 bits into a transaction word. -/

namespace Sys2Proof.Machine

/-- An access on the platform bus: its direction, its byte address, its size in bits and, for a write, its data. -/
structure BusAccess where
  write : Bool
  address : Nat
  sizeBits : Nat
  data : Word
  deriving DecidableEq, Repr

/-- What the adapter makes of an access. -/
inductive BusResult where
  /-- The transaction word the engine sees. -/
  | txn (t : Txn)
  /-- R82: narrower or wider than 32 bits, refused before it reaches the engine. -/
  | refusedWidth
  /-- R81: outside this engine's window; another target's. -/
  | notThisWindow
  deriving DecidableEq, Repr

/-- R81, R82: the adapter for a window at `base`. -/
def adaptAccess (base : Nat) (a : BusAccess) : BusResult :=
  if a.address < base ∨ base + 256 ≤ a.address then .notThisWindow
  else if a.sizeBits ≠ 32 then .refusedWidth
  else .txn (txnOf a.write (BitVec.ofNat 8 (a.address - base)) (if a.write then a.data else 0))

/-- R14: BusRead(addr), on a platform with the window at ENGINE_BASE. -/
def busRead (address : Nat) : BusResult := adaptAccess Config.engineBase ⟨false, address, 32, 0⟩

/-- R14: BusWrite(addr, data). -/
def busWrite (address : Nat) (data : Word) : BusResult := adaptAccess Config.engineBase ⟨true, address, 32, data⟩

/-- R84, D17: BusWrite of four bytes on a byte-addressed bus, through the platform's lane mapping. -/
def busWriteBytes (address : Nat) (b0 b1 b2 b3 : Byte) : BusResult :=
  busWrite address (Config.laneWord b0 b1 b2 b3)

end Sys2Proof.Machine
end

