-- ==== Sys2Proof/Machine/Trace.lean ====
section
/-! DEFINITION. The bit forms of what the engine puts out: the response bits (30_encoding.md rule R111) and the wire
packing of trace records (60_exceptions.md rule R301). The typed values are what the machine holds; these are used where
a wire format is needed. -/

namespace Sys2Proof.Machine

/-- R111: RESP = {ERRBIT, RDATA[31:0]}; RDATA = 0 for ERR and for a write's OK. -/
def Resp.bits : Resp → BitVec 33
  | .okData v => (0 : BitVec 1) ++ v
  | .ok => 0
  | .err => (1 : BitVec 1) ++ (0 : Word)

/-- Eight words side by side, the first the most significant. -/
def packWords (v : Vector Word 8) : BitVec 256 :=
  v[0] ++ v[1] ++ v[2] ++ v[3] ++ v[4] ++ v[5] ++ v[6] ++ v[7]

/-- R301: the 327-bit packing, RoundSnap = {0, blk, round, a..h} and BlockSnap = {1, blk, 0b000000, H0..H7}. -/
def Snap.pack : Snap → BitVec 327
  | .roundSnap blk j r => (0 : BitVec 1) ++ blk ++ j ++ packWords r.toVec
  | .blockSnap blk d => (1 : BitVec 1) ++ blk ++ (0 : BitVec 6) ++ packWords d

end Sys2Proof.Machine
end

