-- ==== Sys2Proof/Machine/Padding.lean ====
section
/-! DEFINITION. Message padding, host-side preprocessing (40_padding.md rules R150 to R163), the byte orders of message and
digest (20_memory.md rules R85 to R87), and SHA-256 of a message (41_compression.md rule R196). The engine does none of
this (00_scope.md rule R8). -/

namespace Sys2Proof.Machine

/-- R16: a block, 64 bytes. -/
abbrev Block := Vector Byte 64

/-- R153: Z, the number of zero bytes, (55 - L) mod 64 taken non-negative. -/
def zeroFill (len : Nat) : Nat := (119 - len % 64) % 64

/-- R154: LEN = (8 × L) mod 2^64. -/
def bitLength (len : Nat) : BitVec 64 := BitVec.ofNat 64 (8 * len)

/-- R154: byte k of the length field, LEN[63-8k : 56-8k]. -/
def lengthByte (len k : Nat) : Byte := (bitLength len).extractLsb' (56 - 8 * k) 8

/-- R154: the eight bytes of the length field, most significant first. -/
def lengthField (len : Nat) : List Byte := (List.range 8).map (lengthByte len)

/-- R151 to R154: the padded byte sequence P. -/
def padBytes (m : List Byte) : List Byte :=
  m ++ 0x80 :: (List.replicate (zeroFill m.length) 0 ++ lengthField m.length)

/-- R155: N, the number of blocks. -/
def blockCount (len : Nat) : Nat := (len + 8) / 64 + 1

/-- R155: block n holds P[64n .. 64n+63]. -/
def blockAt (p : List Byte) (n : Nat) : Block := Vector.ofFn fun k : Fin 64 => p.getD (64 * n + k) 0

/-- R157: pad(M), the block sequence. -/
def pad (m : List Byte) : List Block := (List.range (blockCount m.length)).map (blockAt (padBytes m))

/-- R85: four bytes as one big-endian word, the first the most significant. -/
def bigEndian (b0 b1 b2 b3 : Byte) : Word := b0 ++ b1 ++ b2 ++ b3

/-- R85, R158: the sixteen message words of a block. -/
def blockWords (b : Block) : MsgWords :=
  Vector.ofFn fun i : Fin 16 => bigEndian b[4 * i.val] b[4 * i.val + 1] b[4 * i.val + 2] b[4 * i.val + 3]

/-- The bytes of a block sequence, in order. -/
def blockBytes (p : List Block) : List Byte := p.flatMap Vector.toList

/-- A big-endian byte list as a number. -/
def bigEndianNat (bs : List Byte) : Nat := bs.foldl (fun n b => n * 256 + b.toNat) 0

/-- R160: the inverse, the first LEN / 8 bytes, LEN read from the last 8 bytes. -/
def original (p : List Block) : List Byte :=
  (blockBytes p).take (bigEndianNat ((blockBytes p).drop ((blockBytes p).length - 8)) / 8)

/-- R196: SHA256(M), as eight words. -/
def sha256 (m : List Byte) : Digest := digestOf ((pad m).map blockWords)

/-- R87: the 32 digest bytes, H[0] first and each word most significant byte first. -/
def digestBytes (d : Digest) : List Byte :=
  d.toList.flatMap fun x => [x.extractLsb' 24 8, x.extractLsb' 16 8, x.extractLsb' 8 8, x.extractLsb' 0 8]

end Sys2Proof.Machine
end

