-- ==== Sys2Proof/Machine/Asm.lean ====
section
/-! DEFINITION. Host programs: the pseudo-instructions and their expansion, the raw forms, the disassembler and the line
syntax (30_encoding.md rules R119 to R124). All of it is the host's; the engine sees transactions only. -/

namespace Sys2Proof.Machine

/-- One named transaction as an entry of the host's program. -/
def HostOp.ofInstr (i : Instr) : HostOp := .txn (encode i)

/-- R121: LDBLK, sixteen WMSG in index order. -/
def loadBlockOps (b : Block) : List HostOp :=
  (List.finRange 16).map fun i => HostOp.ofInstr (.wmsg i (blockWords b)[i])

/-- R123: RDDIGEST. -/
def readDigestOps : List HostOp := (List.finRange 8).map fun i => HostOp.ofInstr (.rdh i)

/-- R124: HASH msg: INIT; LDBLK and COMPRESS for each block of pad(msg); RDDIGEST. -/
def hashOps (m : List Byte) : List HostOp :=
  HostOp.ofInstr .init ::
    ((pad m).flatMap (fun b => loadBlockOps b ++ [HostOp.ofInstr .compress]) ++ readDigestOps)

/-- R119 to R124: what a line expands to, its numbers taken as they are (a well-formed line's are in range). -/
def expandLine : AsmLine → List HostOp
  | .nop => [HostOp.ofInstr .nop]
  | .init => [HostOp.ofInstr .init]
  | .compress => [HostOp.ofInstr .compress]
  | .wmsg i word => [HostOp.ofInstr (.wmsg (Fin.ofNat 16 i) (BitVec.ofNat 32 word))]
  | .rdstatus => [HostOp.ofInstr .rdstatus]
  | .rdblklo => [HostOp.ofInstr .rdblklo]
  | .rdblkhi => [HostOp.ofInstr .rdblkhi]
  | .rdfinfo => [HostOp.ofInstr .rdfinfo]
  | .rdh i => [HostOp.ofInstr (.rdh (Fin.ofNat 8 i))]
  | .wr off word => [.txn (txnOf true (BitVec.ofNat 8 off) (BitVec.ofNat 32 word))]
  | .rd off => [.txn (txnOf false (BitVec.ofNat 8 off) 0)]
  | .ldblk bytes => loadBlockOps (blockAt bytes 0)
  | .waitidle => [.waitIdle]
  | .rddigest => readDigestOps
  | .hash m => hashOps m

/-- The assembler: a line out of range is refused. -/
def assembleLine (l : AsmLine) : Option (List HostOp) := if l.wf then some (expandLine l) else none

/-- R119: the program of a list of lines, in order; refused if any line is out of range. -/
def assemble : List AsmLine → Option (List HostOp)
  | [] => some []
  | l :: ls =>
    match assembleLine l, assemble ls with
    | some ops, some rest => some (ops ++ rest)
    | _, none | none, _ => none

/-- R119: the native line of a named transaction. -/
def nativeLine : Instr → AsmLine
  | .nop => .nop
  | .init => .init
  | .compress => .compress
  | .wmsg i d => .wmsg i d.toNat
  | .rdstatus => .rdstatus
  | .rdblklo => .rdblklo
  | .rdblkhi => .rdblkhi
  | .rdfinfo => .rdfinfo
  | .rdh i => .rdh i

/-- R120: the raw form of T. -/
def rawLine (t : Txn) : AsmLine := if t.we then .wr t.addr.toNat t.data.toNat else .rd t.addr.toNat

/-- R120: the disassembler: a T that matches a row by its native mnemonic, and any other T by its raw form. -/
def disassemble (t : Txn) : AsmLine :=
  match decode t with
  | .instr i => nativeLine i
  | .fault _ _ => rawLine t

/-- R119: a comment runs from `;` to the end of the line, and a response annotation from `=>`. -/
def cutComment : List Char → List Char
  | [] => []
  | ';' :: _ => []
  | '=' :: '>' :: _ => []
  | c :: cs => c :: cutComment cs

/-- A blank within a line. -/
def isBlank (c : Char) : Bool := c == ' ' || c == '\t' || c == '\r'

/-- Without the blanks at both ends. -/
def trimBlanks (cs : List Char) : List Char := ((cs.dropWhile isBlank).reverse.dropWhile isBlank).reverse

/-- The pieces between commas. -/
def splitCommas : List Char → List (List Char)
  | [] => [[]]
  | c :: cs =>
    match splitCommas cs with
    | [] => [[c]]
    | p :: ps => if c == ',' then [] :: p :: ps else (c :: p) :: ps

/-- The value of a digit below 16. -/
def digitValue (c : Char) : Option Nat :=
  if '0' ≤ c ∧ c ≤ '9' then some (c.toNat - '0'.toNat)
  else if 'a' ≤ c ∧ c ≤ 'f' then some (c.toNat - 'a'.toNat + 10)
  else if 'A' ≤ c ∧ c ≤ 'F' then some (c.toNat - 'A'.toNat + 10)
  else none

/-- The digits read so far, and the rest in the base; a digit outside the base is refused. -/
def digitsFrom (base acc : Nat) : List Char → Option Nat
  | [] => some acc
  | c :: cs =>
    match digitValue c with
    | some d => if d < base then digitsFrom base (acc * base + d) cs else none
    | none => none

/-- R119: a decimal number. -/
def decimal : List Char → Option Nat
  | [] => none
  | cs => digitsFrom 10 0 cs

/-- R119: a number, decimal, or hexadecimal with 0x. -/
def number : List Char → Option Nat
  | '0' :: 'x' :: c :: cs => digitsFrom 16 0 (c :: cs)
  | cs => decimal cs

/-- R119, R120: a mnemonic with no operand. -/
def bareLine (mnemonic : List Char) : Option AsmLine :=
  if mnemonic = ['N', 'O', 'P'] then some .nop
  else if mnemonic = ['I', 'N', 'I', 'T'] then some .init
  else if mnemonic = ['C', 'O', 'M', 'P', 'R', 'E', 'S', 'S'] then some .compress
  else if mnemonic = ['R', 'D', 'S', 'T', 'A', 'T', 'U', 'S'] then some .rdstatus
  else if mnemonic = ['R', 'D', 'B', 'L', 'K', 'L', 'O'] then some .rdblklo
  else if mnemonic = ['R', 'D', 'B', 'L', 'K', 'H', 'I'] then some .rdblkhi
  else if mnemonic = ['R', 'D', 'F', 'I', 'N', 'F', 'O'] then some .rdfinfo
  else if mnemonic = ['W', 'A', 'I', 'T', 'I', 'D', 'L', 'E'] then some .waitidle
  else if mnemonic = ['R', 'D', 'D', 'I', 'G', 'E', 'S', 'T'] then some .rddigest
  else none

/-- R119, R120: a mnemonic with one operand. -/
def unaryLine (mnemonic x : List Char) : Option AsmLine :=
  if mnemonic = ['R', 'D', 'H'] then (decimal x).map .rdh
  else if mnemonic = ['R', 'D'] then (number x).map .rd
  else none

/-- R119, R120: a mnemonic with two operands. -/
def binaryLine (mnemonic x y : List Char) : Option AsmLine :=
  if mnemonic = ['W', 'M', 'S', 'G'] then
    match decimal x, number y with
    | some i, some word => some (.wmsg i word)
    | _, none | none, _ => none
  else if mnemonic = ['W', 'R'] then
    match number x, number y with
    | some off, some word => some (.wr off word)
    | _, none | none, _ => none
  else none

/-- What one line of text holds. -/
inductive LineText where
  /-- Nothing but blanks and comment. -/
  | blank
  /-- A line in the syntax. -/
  | line (l : AsmLine)
  /-- Anything else. -/
  | malformed
  deriving DecidableEq, Repr

/-- R119, R120: one line of a host program, from its characters. The spec gives the operands of LDBLK and HASH no
written form, so those two have none here. Log 19. -/
def parseLine (text : List Char) : LineText :=
  let body := trimBlanks (cutComment text)
  let mnemonic := body.takeWhile fun c => !isBlank c
  let operands := trimBlanks (body.dropWhile fun c => !isBlank c)
  let found :=
    if operands = [] then bareLine mnemonic
    else match (splitCommas operands).map trimBlanks with
      | [x] => unaryLine mnemonic x
      | [x, y] => binaryLine mnemonic x y
      | _ => none
  if body = [] then .blank
  else match found with
    | some l => .line l
    | none => .malformed

end Sys2Proof.Machine
end

