-- ==== Sys2Proof/Safety.lean ====
section
/-! DEFINITION. The terms claims are made in: the invariants of the spec, what two states share, and what a final state
is. -/

namespace Sys2Proof.Machine

/-- 10_state.md rule R51, with the rule of R40 that a fault is never recorded with the cause NONE: the invariants of
every reachable state. (R51's last item is R48's definition of BUSY.) -/
abbrev StateInv (s : State) : Prop :=
  (s.fault = true → s.phase = .idle) ∧
  (s.phase = .idle ∨ s.phase = .fold → s.rnd = 0) ∧
  (s.fault = false → s.cause = .none ∧ s.faultInfo = 0) ∧
  (s.fault = true → s.cause ≠ .none)

/-- How many rounds of the block in progress are done: RND in RUN (R37), 64 in FOLD (R36). -/
def roundsDone (s : State) : Nat :=
  match s.phase with
  | .idle => 0
  | .run => s.rnd.toNat
  | .fold => 64

/-- How many entries of W the rules have written for the block in progress: the sixteen loaded ones (R186), and one more
for each round from 16 on (R187). -/
def wordsKnown (s : State) : Nat := max 16 (roundsDone s)

/-- While a block is in progress, for some sixteen message words the entries of W written so far are those of its
schedule (R188) and the working registers are those after the rounds done, run from the digest state that H still holds
(R191, R31); and no message word has been written since (R34, R231). -/
def BlockInv (s : State) : Prop :=
  s.busy = true →
    s.msgValid = 0 ∧
    ∃ m : MsgWords,
      (∀ k : Fin 64, k.val < wordsKnown s → s.w[k] = (sched m)[k]) ∧
      s.wr = roundsUpTo (sched m) (WorkRegs.ofDigest s.h) (roundsDone s)

/-- Two states that hold the same engine state (R31 to R42) and have emitted the same trace (R55). -/
abbrev SameEngine (s t : State) : Prop :=
  s.h = t.h ∧ s.wr = t.wr ∧ s.msg = t.msg ∧ s.msgValid = t.msgValid ∧ s.w = t.w ∧ s.phase = t.phase ∧ s.rnd = t.rnd ∧
  s.fault = t.fault ∧ s.cause = t.cause ∧ s.blkcnt = t.blkcnt ∧ s.faultInfo = t.faultInfo ∧ s.trace = t.trace

/-- Two states that agree on everything the rules have written (R50): they may differ in a..h and W while no block is in
progress, in the entries of W not yet written for the block in progress, and in the message words whose valid bit is
clear. -/
def SameDefined (s t : State) : Prop :=
  s.h = t.h ∧ s.msgValid = t.msgValid ∧ s.phase = t.phase ∧ s.rnd = t.rnd ∧ s.fault = t.fault ∧ s.cause = t.cause ∧
  s.blkcnt = t.blkcnt ∧ s.faultInfo = t.faultInfo ∧ s.pending = t.pending ∧ s.trace = t.trace ∧
  s.responses = t.responses ∧ s.booted = t.booted ∧ s.program = t.program ∧ s.sched = t.sched ∧
  s.lead = t.lead ∧ s.free = t.free ∧
  (∀ i : Fin 16, s.msgValid.getLsbD i = true → s.msg[i] = t.msg[i]) ∧
  (s.busy = true → s.wr = t.wr ∧ ∀ k : Fin 64, k.val < wordsKnown s → s.w[k] = t.w[k])

/-- Two outcomes of one kind, with related next states. -/
def SameOutcome (R : State → State → Prop) : Host.Outcome State Fault Refusal → Host.Outcome State Fault Refusal → Prop
  | .next s, .next t => R s t
  | .fault a, .fault b => a = b
  | .refused a, .refused b => a = b
  | .next _, .fault _ | .next _, .refused _ | .fault _, .next _ | .fault _, .refused _ | .refused _, .next _
  | .refused _, .fault _ => False

/-- n steps of the machine, stopping at the first that stops. -/
def runSteps : Nat → State → Host.Outcome State Fault Refusal
  | 0, s => .next s
  | n + 1, s =>
    match step s with
    | .next t => runSteps n t
    | .fault why => .fault why
    | .refused why => .refused why

/-- R254: a final state of a host program: nothing pending, the program done, and PHASE = IDLE. -/
def State.final (s : State) : Bool := s.pending.isNone && s.program.isEmpty && !s.busy

/-- The schedule asserts no reset (R320). -/
def State.noReset (s : State) : Prop := ∀ t ∈ s.sched, t ≠ .reset

end Sys2Proof.Machine
end

