-- ==== Sys2Proof/Certificates/Slice0/Obligations.lean ====
section
/-! DEFINITION. The statements for the provers. Each docstring names the rules of spec/ it formalises; where a clause
rests on the model's own choice it says so. A free value is never named: such a register is bound by an existential and
nothing is said of it. -/

open Sys2Proof Sys2Proof.Machine

/- Encoding and decoding -/

/-- R115, R119: every named transaction, with every operand, decodes from its own word. -/
def Obligations.DecodeOfEncode : Prop := ∀ i : Instr, decode (encode i) = .instr i

/-- R115: T decodes to a named transaction exactly when it matches one of the nine rows, and then matches the row of
that transaction; the operands are the index and data bits of the row's pattern; the rows are the table's, and pairwise
disjoint. -/
def Obligations.NamedExactlyWhenRowMatches : Prop :=
  (opcodeRows.map fun r => (r.mask, r.value)) =
    [(0x1ffffffffff, 0x10000000000), (0x1ffffffffff, 0x10000000001), (0x1ffffffffff, 0x10000000002),
     (0x1c300000000, 0x14000000000), (0x1ff00000000, 0x00400000000), (0x1ff00000000, 0x00800000000),
     (0x1ff00000000, 0x00c00000000), (0x1ff00000000, 0x01000000000), (0x1e300000000, 0x02000000000)] ∧
  (∀ t : Txn, (∃ i, decode t = .instr i) ↔ ∃ r ∈ opcodeRows, t &&& r.mask = r.value) ∧
  (∀ (t : Txn) (i : Instr), decode t = .instr i → t &&& i.row.mask = i.row.value) ∧
  (∀ (t : Txn) (i : Fin 16) (d : Word), decode t = .instr (.wmsg i d) →
    i.val = (t.extractLsb' 34 4).toNat ∧ d = t.extractLsb' 0 32) ∧
  (∀ (t : Txn) (i : Fin 8), decode t = .instr (.rdh i) → i.val = (t.extractLsb' 34 3).toNat) ∧
  opcodeRows.Pairwise (fun r q => ∀ t : Txn, ¬ (t &&& r.mask = r.value ∧ t &&& q.mask = q.value))

/-- R117: two reads that differ only in DATA behave identically, and the encoder writes a read with DATA = 0. (A decoder
accepts any DATA, and a read that faults records FAULTINFO without DATA, are both part of the first clause.) -/
def Obligations.ReadDataIgnored : Prop :=
  (∀ (a : Offset) (d d' : Word), decode (txnOf false a d) = decode (txnOf false a d')) ∧
  (∀ (a : Offset) (d d' : Word) (s : State), hostStep (txnOf false a d) s = hostStep (txnOf false a d') s) ∧
  (∀ i : Instr, i.isWrite = false → Txn.data (encode i) = 0)

/-- R114, R116, R283, R285: which words are of which fault class, and the FAULTINFO of each: FAULTINFO[8] = WE,
FAULTINFO[7:0] = ADDR and FAULTINFO[31:9] = 0 for the three address faults, the DATA for ILLEGAL_COMMAND. -/
def Obligations.FaultClassesOfDecode : Prop :=
  ∀ (t : Txn) (info : Word),
    let a := t.addr.toNat
    let access := info.toNat = (if t.we then 256 else 0) + a
    (decode t = .fault .misaligned info ↔ a % 4 ≠ 0 ∧ access) ∧
    (decode t = .fault .unmapped info ↔
      a % 4 = 0 ∧ (a = 0x14 ∨ a = 0x18 ∨ a = 0x1C ∨ 0x80 ≤ a) ∧ access) ∧
    (decode t = .fault .accessDirection info ↔
      a % 4 = 0 ∧ access ∧
      ((t.we = true ∧ (a = 0x04 ∨ a = 0x08 ∨ a = 0x0C ∨ a = 0x10 ∨ 0x20 ≤ a ∧ a < 0x40)) ∨
       (t.we = false ∧ (a = 0x00 ∨ 0x40 ≤ a ∧ a < 0x80)))) ∧
    (decode t = .fault .illegalCommand info ↔ t.we = true ∧ a = 0 ∧ 3 ≤ t.data.toNat ∧ info = t.data) ∧
    decode t ≠ .fault .none info ∧ decode t ≠ .fault .incompleteBlock info

/-- R115, R116: words written out from R115's patterns, one of each family and one of each fault class. -/
def Obligations.WordsDecodeAsTheTableSays : Prop :=
  decode 0b10000000000000000000000000000000000000000 = .instr .nop ∧
  decode 0b10000000000000000000000000000000000000001 = .instr .init ∧
  decode 0b10000000000000000000000000000000000000010 = .instr .compress ∧
  decode 0b10101010001100001011000100110001110000000 = .instr (.wmsg 5 0x61626380) ∧
  decode 0b00000010011011110101011011011111011101111 = .instr .rdstatus ∧
  decode 0b00000100000000000000000000000000000000000 = .instr .rdblklo ∧
  decode 0b00000110000000000000000000000000000000000 = .instr .rdblkhi ∧
  decode 0b00001000000000000000000000000000000000000 = .instr .rdfinfo ∧
  decode 0b00011100000000000000000000000000000000000 = .instr (.rdh 6) ∧
  decode 0b10000000000000000000000000000000000000011 = .fault .illegalCommand 3 ∧
  decode 0b10001010100000000000000000000000000000000 = .fault .misaligned 0x115 ∧
  decode 0b00001010000000000000000000000000000000000 = .fault .unmapped 0x14 ∧
  decode 0b00100000000000000000000000000000000000000 = .fault .accessDirection 0x40

/-- R120: the disassembler's line for T is in range and assembles to T again, its DATA taken as 0 if T is a read
(R117). -/
def Obligations.AssembleOfDisassemble : Prop :=
  ∀ t : Txn, assembleLine (disassemble t) = some [.txn t.canonical]

/- The step -/

/-- R230 to R233: a step in which the host moves runs the transaction on the port, or the one its program issues, if it
is a named one that can be accepted; and so does the step after State.withFetchWord. Around exec the step only uses up
the turn and moves the transaction from the program to the port. The model's own choices in it: whose turn it is with
the schedule used up (log 4), the program and withFetchWord (log 6 and 17; on an occupied port it replaces the
transaction there unanswered, log 6), and that a host's turn issues and has accepted in one step (log 10). -/
def Obligations.StepRunsDecodedInstruction : Prop :=
  (∀ (s : State) (rest : List Turn) (t : Txn) (i : Instr), s.booted = true → s.sched = .host :: rest →
    s.pending = some t → decode t = .instr i → (s.phase = .idle ∨ i = .rdstatus) →
    step s = exec i { s with sched := rest }) ∧
  (∀ (s : State) (rest : List HostOp) (t : Txn) (i : Instr), s.booted = true → s.sched = [] → s.phase = .idle →
    s.pending = none → s.program = .txn t :: rest → decode t = .instr i →
    step s = exec i { s with pending := some t, program := rest }) ∧
  (∀ (s : State) (n w : Nat) (i : Instr), s.booted = true → decodeTableWord n w = some i →
    (s.phase = .idle ∨ i = .rdstatus) →
    step (s.withFetchWord n w) = exec i { s with pending := some (tableTxn n w) })

/-- R232, R281, R282: a step in which the host moves, in IDLE, with a word of a fault class on the port, answers ERR and
writes the fault record if it is the first fault; nothing else of the engine changes. -/
def Obligations.StepRaisesDecodeFault : Prop :=
  ∀ (s : State) (rest : List Turn) (t : Txn) (c : Cause) (info : Word), s.booted = true → s.sched = .host :: rest →
    s.pending = some t → s.phase = .idle → decode t = .fault c info →
    step s = .next (if s.fault
      then { s with sched := rest, pending := none, responses := s.responses ++ [.err] }
      else { s with sched := rest, pending := none, responses := s.responses ++ [.err],
                    fault := true, cause := c, faultInfo := info })

/-- R83: a transaction whose ADDR[1:0] is not 0 faults with MISALIGNED and performs nothing. -/
def Obligations.MisalignedAccessFaults : Prop :=
  ∀ (s : State) (t : Txn), s.phase = .idle → t.addr.extractLsb' 0 2 ≠ 0 →
    (s.fault = false → hostStep t s = .next { s with
      fault := true, cause := .misaligned, faultInfo := accessInfo t.we t.addr, pending := none,
      responses := s.responses ++ [.err] }) ∧
    (s.fault = true → hostStep t s = .next { s with pending := none, responses := s.responses ++ [.err] })

/-- R282: raising a fault writes FAULT, CAUSE and FAULTINFO if FAULT = 0 and nothing if FAULT = 1, and answers ERR; and
a step raises FAULT only while PHASE = IDLE, which it leaves so. -/
def Obligations.FirstFaultIsRecorded : Prop :=
  (∀ (s : State) (c : Cause) (info : Word), s.fault = false → s.raiseFault c info =
    { s with fault := true, cause := c, faultInfo := info, pending := none, responses := s.responses ++ [.err] }) ∧
  (∀ (s : State) (c : Cause) (info : Word), s.fault = true → s.raiseFault c info =
    { s with pending := none, responses := s.responses ++ [.err] }) ∧
  (∀ s t : State, step s = .next t → s.fault = false → t.fault = true → s.phase = .idle ∧ t.phase = .idle)

/- The named transactions -/

/-- R234: NOP, accepted in IDLE, answers OK (ERR while FAULT = 1) and changes nothing else. While PHASE ≠ IDLE it is
held (R231), and that exec of a held transaction answers the state unchanged is the model's reading (log 12). -/
def Obligations.NopOnlyAnswers : Prop :=
  encode .nop = 0x10000000000 ∧ (∀ s : State, s.phase ≠ .idle → exec .nop s = .next s) ∧
  ∀ s : State, s.phase = .idle →
    (s.fault = false → exec .nop s = .next { s with pending := none, responses := s.responses ++ [.ok] }) ∧
    (s.fault = true → exec .nop s = .next { s with pending := none, responses := s.responses ++ [.err] })

/-- R235: INIT, accepted in IDLE, loads the IV, clears BLKCNT and MSGVALID, answers OK and changes nothing else; while
FAULT = 1 it only answers ERR, so it clears no fault. The IV is R45's. While PHASE ≠ IDLE it is held (R231), and that
exec of a held transaction answers the state unchanged is the model's reading (log 12). -/
def Obligations.InitLoadsInitialDigest : Prop :=
  encode .init = 0x10000000001 ∧ (∀ s : State, s.phase ≠ .idle → exec .init s = .next s) ∧
  ∀ s : State, s.phase = .idle →
    (s.fault = false → exec .init s = .next { s with
      h := #v[0x6a09e667, 0xbb67ae85, 0x3c6ef372, 0xa54ff53a, 0x510e527f, 0x9b05688c, 0x1f83d9ab, 0x5be0cd19],
      blkcnt := 0, msgValid := 0, pending := none, responses := s.responses ++ [.ok] }) ∧
    (s.fault = true → exec .init s = .next { s with pending := none, responses := s.responses ++ [.err] })

/-- R236: COMPRESS, accepted in IDLE. With a complete block it loads W[0..15] from MSG and a..h from H, clears MSGVALID
and RND, enters RUN and answers OK; MSG becomes unspecified (m, of which nothing is said; the free-value index f is the
model's own, log 2); all else stays. With an incomplete block it raises INCOMPLETE_BLOCK; while FAULT = 1 it only
answers ERR. While PHASE ≠ IDLE it is held (R231), and that exec of a held transaction answers the state unchanged is
the model's reading (log 12). -/
def Obligations.CompressStartsOrFaults : Prop :=
  encode .compress = 0x10000000002 ∧ (∀ s : State, s.phase ≠ .idle → exec .compress s = .next s) ∧
  ∀ s : State, s.phase = .idle →
    (s.fault = true → exec .compress s = .next { s with pending := none, responses := s.responses ++ [.err] }) ∧
    (s.fault = false → s.msgValid ≠ 0xFFFF → exec .compress s = .next { s with
      fault := true, cause := .incompleteBlock, faultInfo := s.msgValid.setWidth 32, pending := none,
      responses := s.responses ++ [.err] }) ∧
    (s.fault = false → s.msgValid = 0xFFFF → ∃ (w' : Schedule) (m : MsgWords) (f : Nat),
      (∀ k : Fin 64, w'[k] = if hk : k.val < 16 then s.msg[k.val] else s.w[k]) ∧
      exec .compress s = .next { s with
        w := w'
        wr := ⟨s.h[0], s.h[1], s.h[2], s.h[3], s.h[4], s.h[5], s.h[6], s.h[7]⟩
        msgValid := 0, msg := m, free := f, rnd := 0, phase := .run, pending := none
        responses := s.responses ++ [.ok] })

/-- R237: WMSG i, d, accepted in IDLE, writes MSG[i] and its valid bit, answers OK and changes nothing else; while
FAULT = 1 it only answers ERR. While PHASE ≠ IDLE it is held (R231), and that exec of a held transaction answers the
state unchanged is the model's reading (log 12). -/
def Obligations.WmsgWritesOneWord : Prop :=
  (∀ (i : Fin 16) (d : Word), encode (.wmsg i d) =
    ((1 : Txn) <<< 40) ||| (BitVec.ofNat 41 (0x40 + 4 * i.val) <<< 32) ||| d.setWidth 41) ∧
  (∀ (s : State) (i : Fin 16) (d : Word), s.phase ≠ .idle → exec (.wmsg i d) s = .next s) ∧
  ∀ (s : State) (i : Fin 16) (d : Word), s.phase = .idle →
    (s.fault = true → exec (.wmsg i d) s = .next { s with pending := none, responses := s.responses ++ [.err] }) ∧
    (s.fault = false → ∃ (m : MsgWords) (v : BitVec 16),
      (∀ k : Fin 16, m[k] = if k = i then d else s.msg[k]) ∧
      (∀ k : Fin 16, v.getLsbD k = (decide (k = i) || s.msgValid.getLsbD k)) ∧
      exec (.wmsg i d) s = .next { s with
        msg := m, msgValid := v, pending := none, responses := s.responses ++ [.ok] })

/-- R48 and R238: RDSTATUS is accepted in every phase, FAULT or not, changes nothing and answers the STATUS word, whose
every field is as R48's table says, with R36's codes of PHASE and R283's of CAUSE; after reset it is 0x00000000; and
STATUS is read-only: a write to its offset is a fault of decode. -/
def Obligations.RdstatusAnswersStatusFields : Prop :=
  encode .rdstatus = 0x00400000000 ∧ State.reset.status = 0x00000000 ∧
  (∀ d : Word, decode (txnOf true 0x04 d) = .fault .accessDirection 0x104) ∧
  ∀ s : State, ∃ v : Word,
    exec .rdstatus s = .next { s with pending := none, responses := s.responses ++ [.okData v] } ∧
    (v.getLsbD 0 = true ↔ s.phase ≠ .idle) ∧
    v.getLsbD 1 = s.fault ∧
    v.extractLsb' 2 2 = 0 ∧
    v.extractLsb' 4 4 = (match s.cause with
      | .none => 0 | .illegalCommand => 1 | .incompleteBlock => 2 | .unmapped => 3 | .misaligned => 4
      | .accessDirection => 5) ∧
    v.extractLsb' 8 6 = s.rnd ∧
    v.extractLsb' 14 2 = (match s.phase with | .idle => 0b00 | .run => 0b01 | .fold => 0b10) ∧
    v.extractLsb' 16 16 = s.msgValid

/-- R239 to R242: the other reads, accepted in IDLE, FAULT or not, change nothing and answer the low and high words of
BLKCNT, FAULTINFO and H[i]. While PHASE ≠ IDLE they are held (R231), and that exec of a held transaction answers the
state unchanged is the model's reading (log 12). -/
def Obligations.ReadsAnswerTheirRegister : Prop :=
  (encode .rdblklo = 0x00800000000 ∧ encode .rdblkhi = 0x00c00000000 ∧ encode .rdfinfo = 0x01000000000 ∧
    ∀ i : Fin 8, encode (.rdh i) = BitVec.ofNat 41 (0x20 + 4 * i.val) <<< 32) ∧
  ∀ s : State,
    (s.phase = .idle →
      exec .rdblklo s = .next { s with
        pending := none, responses := s.responses ++ [.okData (BitVec.ofNat 32 (s.blkcnt.toNat % 2 ^ 32))] } ∧
      exec .rdblkhi s = .next { s with
        pending := none, responses := s.responses ++ [.okData (BitVec.ofNat 32 (s.blkcnt.toNat / 2 ^ 32))] } ∧
      exec .rdfinfo s = .next { s with pending := none, responses := s.responses ++ [.okData s.faultInfo] } ∧
      ∀ i : Fin 8, exec (.rdh i) s = .next { s with
        pending := none, responses := s.responses ++ [.okData s.h[i]] }) ∧
    (s.phase ≠ .idle → exec .rdblklo s = .next s ∧ exec .rdblkhi s = .next s ∧ exec .rdfinfo s = .next s ∧
      ∀ i : Fin 8, exec (.rdh i) s = .next s)

/-- R286: in the faulted state every write, legal or not, is answered ERR without effect; every named read is answered
OK with its data as exec gives it; a read that would fault is answered ERR and the record stays; and a step leaves the
state faulted unless it is reset. -/
def Obligations.FaultedStateAnswersReadsOnly : Prop :=
  (∀ s : State, s.phase = .idle → s.fault = true →
    (∀ t : Txn, t.we = true →
      hostStep t s = .next { s with pending := none, responses := s.responses ++ [.err] }) ∧
    (∀ (t : Txn) (i : Instr), t.we = false → decode t = .instr i → hostStep t s = exec i s ∧
      ∃ v, hostStep t s = .next { s with pending := none, responses := s.responses ++ [.okData v] }) ∧
    (∀ (t : Txn) (c : Cause) (info : Word), t.we = false → decode t = .fault c info →
      hostStep t s = .next { s with pending := none, responses := s.responses ++ [.err] })) ∧
  (∀ s t : State, step s = .next t → s.fault = true → t.fault = true ∨ s.sched.head? = some .reset)

/-- R231: while PHASE ≠ IDLE, RDSTATUS is accepted, and every other T, faulting encodings too, is held: no effect and no
response, and it stays on the port while the step is the engine's; in IDLE every T is accepted under R232; from RUN with
RND = j exactly 65 - j engine steps return PHASE to IDLE, and from FOLD exactly one does. Two clauses are the model's
own: Hold as the unchanged state, in hostStep and in exec (log 12), and that the host's and the issuing turn are engine
steps while a transaction is held (log 10). -/
def Obligations.BusyEngineHoldsTransactions : Prop :=
  (∀ (s : State) (t : Txn), s.phase ≠ .idle → t &&& 0x1ff00000000 ≠ 0x00400000000 → hostStep t s = .next s) ∧
  (∀ (s : State) (t : Txn), s.phase ≠ .idle → t &&& 0x1ff00000000 = 0x00400000000 → hostStep t s = exec .rdstatus s) ∧
  (∀ (s : State) (t : Txn), s.phase = .idle → hostStep t s = hostAccept t s) ∧
  (∀ (s : State) (i : Instr), s.phase ≠ .idle → i ≠ .rdstatus → exec i s = .next s) ∧
  (∀ (s : State) (t : Txn) (x : Turn) (rest : List Turn), s.booted = true → s.sched = x :: rest → x ≠ .reset →
    s.phase ≠ .idle → s.pending = some t → t &&& 0x1ff00000000 ≠ 0x00400000000 →
    step s = .next (State.engineStep { s with sched := rest }) ∧
    (State.engineStep { s with sched := rest }).pending = some t ∧
    (State.engineStep { s with sched := rest }).responses = s.responses) ∧
  (∀ s : State, s.phase = .run → (s.engineSteps (65 - s.rnd.toNat)).phase = .idle ∧
    ∀ k < 65 - s.rnd.toNat, (s.engineSteps k).phase ≠ .idle) ∧
  (∀ s : State, s.phase = .fold → s.engineStep.phase = .idle)

/-- R231, R341: with no reset, a transaction held in RUN with RND = j is still on the port, unanswered, after 65 - j
steps of the machine, and then PHASE is IDLE, as it was at no step before. Which turns the schedule gives, or the free
choice where it has run out, makes no difference. It counts steps of the machine, so it rests on the model's choice that
every turn of a busy engine with a held transaction is an engine step (log 5 and 10). -/
def Obligations.HeldTransactionWaitsOutTheBlock : Prop :=
  ∀ (s : State) (t : Txn), s.booted = true → s.noReset → s.phase = .run → s.pending = some t → isRdStatus t = false →
    (∃ u, runSteps (65 - s.rnd.toNat) s = .next u ∧ u.phase = .idle ∧ u.pending = some t ∧
      u.responses = s.responses ∧ u.program = s.program) ∧
    ∀ k < 65 - s.rnd.toNat, ∃ v, runSteps k s = .next v ∧ v.phase ≠ .idle ∧ v.pending = some t

/- Engine steps -/

/-- R250: the round step. W[j] is written for j ≥ 16, the registers take the round's values, one RoundSnap is emitted,
and RND goes on, or PHASE to FOLD after round 63 with RND back at 0; nothing else changes. -/
def Obligations.RoundStepEffect : Prop :=
  ∀ s : State, s.phase = .run → ∃ w' : Schedule,
    (∀ k : Fin 64, w'[k] =
      if k.val = s.rnd.toNat ∧ 16 ≤ k.val
      then ssig1 s.w[k - 2] + s.w[k - 7] + ssig0 s.w[k - 15] + s.w[k - 16] else s.w[k]) ∧
    let t1 := s.wr.h + bsig1 s.wr.e + ch s.wr.e s.wr.f s.wr.g + kAt s.rnd + wAt w' s.rnd
    let t2 := bsig0 s.wr.a + maj s.wr.a s.wr.b s.wr.c
    let regs : WorkRegs := ⟨t1 + t2, s.wr.a, s.wr.b, s.wr.c, s.wr.d + t1, s.wr.e, s.wr.f, s.wr.g⟩
    s.engineStep = { s with
      w := w', wr := regs
      trace := s.trace ++ [.roundSnap s.blkcnt s.rnd regs]
      phase := if s.rnd.toNat = 63 then .fold else .run
      rnd := if s.rnd.toNat = 63 then 0 else s.rnd + 1 }

/-- R251: the fold step. Each H[i] grows by its working register modulo 2^32, one BlockSnap with the block's own index is
emitted, BLKCNT grows by 1 modulo 2^64, and PHASE becomes IDLE; nothing else changes. -/
def Obligations.FoldStepEffect : Prop :=
  ∀ s : State, s.phase = .fold → ∃ h' : Digest,
    (h'[0] = s.h[0] + s.wr.a ∧ h'[1] = s.h[1] + s.wr.b ∧ h'[2] = s.h[2] + s.wr.c ∧ h'[3] = s.h[3] + s.wr.d ∧
     h'[4] = s.h[4] + s.wr.e ∧ h'[5] = s.h[5] + s.wr.f ∧ h'[6] = s.h[6] + s.wr.g ∧ h'[7] = s.h[7] + s.wr.h) ∧
    s.engineStep = { s with
      h := h', trace := s.trace ++ [.blockSnap s.blkcnt h']
      blkcnt := BitVec.ofNat 64 (s.blkcnt.toNat + 1), phase := .idle }

/-- R253: from the acceptance of COMPRESS with H = Hin and MSG = M, 65 engine steps later PHASE is IDLE, H is C(Hin, M),
BLKCNT has grown by 1, and the trace has received the 64 round records, each with the registers after its round, and then
the block record with C(Hin, M), all tagged with the block's index. -/
def Obligations.EngineComputesCompression : Prop :=
  ∀ s : State, s.phase = .idle → s.fault = false → s.msgValid = 0xFFFF →
    ∃ u, exec .compress s = .next u ∧
      (u.engineSteps 65).phase = .idle ∧
      (u.engineSteps 65).h = compressBlock s.h s.msg ∧
      (u.engineSteps 65).blkcnt = s.blkcnt + 1 ∧
      (u.engineSteps 65).responses = s.responses ++ [.ok] ∧
      (u.engineSteps 65).trace = s.trace
        ++ (List.range 64).map (fun j => Snap.roundSnap s.blkcnt (BitVec.ofNat 6 j)
             (roundsUpTo (sched s.msg) (WorkRegs.ofDigest s.h) (j + 1)))
        ++ [.blockSnap s.blkcnt (compressBlock s.h s.msg)]

/-- R94, R238: the STATUS that a RDSTATUS sees k engine steps after a COMPRESS was accepted, for every k from 0 to 65. -/
def Obligations.StatusDuringCompression : Prop :=
  ∀ s : State, StateInv s → s.phase = .idle → s.fault = false → s.msgValid = 0xFFFF →
    ∃ u, exec .compress s = .next u ∧
      ∀ k ≤ 65, ∃ v : Word,
        exec .rdstatus (u.engineSteps k) = .next { u.engineSteps k with
          pending := none, responses := (u.engineSteps k).responses ++ [.okData v] } ∧
        v = (if k ≤ 63 then 0x00004001 ||| (BitVec.ofNat 32 k <<< 8) else if k = 64 then 0x00008001 else 0x00000000)

/-- R233, R94, R289: with RDSTATUS on the port during a compression, the host step and the engine step may come in
either order; the order changes only the value answered. -/
def Obligations.RdstatusOrderChangesOnlyAnswer : Prop :=
  ∀ (s : State) (t : Txn) (rest : List Turn), s.booted = true → s.phase ≠ .idle → s.pending = some t →
    isRdStatus t = true →
    ∃ a b, runSteps 2 { s with sched := .host :: .engine :: rest } = .next a ∧
      runSteps 2 { s with sched := .engine :: .host :: rest } = .next b ∧
      a.responses = s.responses ++ [.okData s.status] ∧
      b.responses = s.responses ++ [.okData s.engineStep.status] ∧
      a = { b with responses := a.responses }

/- Reset -/

/-- R320, R322: reset in any state, before the first reset too, gives every register the value R320 lists, answers a
pending transaction ERR and no other, leaves the trace as it was, and is idempotent in all of this. Of a..h, W and MSG
nothing is said (unspecified; log 3). The model's own: that the host's program goes on (log 6), and that a transaction
on the port is answered ERR in IDLE too, where R322 speaks of one held while busy (log 14). -/
def Obligations.ResetEffect : Prop :=
  ∀ (s : State) (rest : List Turn), s.sched = .reset :: rest → ∃ t, step s = .next t ∧
    t.h = iv ∧ t.msgValid = 0 ∧ t.phase = .idle ∧ t.rnd = 0 ∧ t.fault = false ∧ t.cause = .none ∧ t.faultInfo = 0 ∧
    t.blkcnt = 0 ∧ t.pending = none ∧ t.booted = true ∧ t.trace = s.trace ∧ t.program = s.program ∧ t.sched = rest ∧
    t.responses = (if s.pending = none then s.responses else s.responses ++ [.err]) ∧
    ∃ u, step { t with sched := .reset :: rest } = .next u ∧
      u = { t with wr := u.wr, msg := u.msg, w := u.w, free := u.free }

/-- R54: the reset value of every piece of state that the spec gives one, and STATUS as read. The other fields of
State.reset hold the values log 1, 4, 6 and 9 name, and are not stated here. -/
def Obligations.ResetStateValues : Prop :=
  State.reset.h = #v[0x6a09e667, 0xbb67ae85, 0x3c6ef372, 0xa54ff53a, 0x510e527f, 0x9b05688c, 0x1f83d9ab, 0x5be0cd19] ∧
  State.reset.msgValid = 0x0000 ∧ State.reset.phase = .idle ∧ State.reset.rnd = 0 ∧ State.reset.fault = false ∧
  State.reset.cause = .none ∧ State.reset.blkcnt = 0 ∧ State.reset.faultInfo = 0x00000000 ∧
  State.reset.pending = none ∧ State.reset.status = 0x00000000

/-- R314, R330, 93_implementation_defined.md row 8: before the first reset a step that is not reset stops. With a
transaction that the host offers (s.issueNext.pending) it is refused, as row 8 asks; with none it is a fault, which is the
model's choice (log 8). -/
def Obligations.OnlyResetBeforeFirstReset : Prop :=
  ∀ s : State, s.booted = false → s.sched.head? ≠ some .reset →
    (s.issueNext.pending ≠ none → step s = .refused .transactionBeforeReset) ∧
    (s.issueNext.pending = none → step s = .fault .engineBeforeReset)

/- Invariants and rules of the whole machine -/

/-- R51: the invariants hold in the state right after reset, the one of a block in progress among them. -/
def Obligations.InvariantsHoldAtReset : Prop := StateInv State.reset ∧ BlockInv State.reset

/-- R51: every step keeps the invariants, from every state that meets them. -/
def Obligations.StepKeepsInvariants : Prop := ∀ s t : State, StateInv s → step s = .next t → StateInv t

/-- R188, R191, R31: every step keeps the invariant of the block in progress: the schedule written so far and the
working registers are those of some block from the digest state H still holds. -/
def Obligations.StepKeepsBlockInvariant : Prop := ∀ s t : State, BlockInv s → step s = .next t → BlockInv t

/-- R39, R40, R42: in a step that is not reset, a fault record once made stays as it is, and none is made without
FAULT's change from 0 to 1. -/
def Obligations.FaultRecordChangesOnce : Prop :=
  ∀ s t : State, step s = .next t → s.sched.head? ≠ some .reset →
    (s.fault = true → t.fault = true ∧ t.cause = s.cause ∧ t.faultInfo = s.faultInfo) ∧
    (s.fault = false → t.fault = false → t.cause = s.cause ∧ t.faultInfo = s.faultInfo)

/-- R31: H changes only by reset, by an accepted INIT, and by the fold. (s.issueNext.pending is the transaction the host
offers in this step.) -/
def Obligations.DigestChangesOnly : Prop :=
  ∀ s t : State, step s = .next t →
    t.h = s.h ∨
    (s.sched.head? = some .reset ∧ t.h = iv) ∨
    (s.phase = .idle ∧ s.fault = false ∧ t.h = iv ∧
      ∃ T, s.issueNext.pending = some T ∧ decode T = .instr .init) ∨
    (s.phase = .fold ∧ t.phase = .idle ∧ ∀ i : Fin 8, t.h[i] = s.h[i] + s.wr.toVec[i])

/-- R41, R310: BLKCNT changes only by reset and an accepted INIT, to 0, and by the fold, by 1. -/
def Obligations.BlockCountChangesOnly : Prop :=
  ∀ s t : State, step s = .next t →
    t.blkcnt = s.blkcnt ∨
    (s.sched.head? = some .reset ∧ t.blkcnt = 0) ∨
    (s.phase = .idle ∧ s.fault = false ∧ t.blkcnt = 0 ∧
      ∃ T, s.issueNext.pending = some T ∧ decode T = .instr .init) ∨
    (s.phase = .fold ∧ t.phase = .idle ∧ t.blkcnt = s.blkcnt + 1)

/-- R34: a bit of MSGVALID rises only by an accepted WMSG of its index, and falls only by reset, an accepted INIT or an
accepted COMPRESS. -/
def Obligations.ValidBitsChangeOnly : Prop :=
  ∀ (s t : State) (k : Fin 16), step s = .next t → s.sched.head? ≠ some .reset →
    (s.msgValid.getLsbD k = false → t.msgValid.getLsbD k = true →
      ∃ T d, s.issueNext.pending = some T ∧ decode T = .instr (.wmsg k d) ∧ t.msg[k] = d) ∧
    (s.msgValid.getLsbD k = true → t.msgValid.getLsbD k = false → t.msgValid = 0 ∧
      ∃ T, s.issueNext.pending = some T ∧ (decode T = .instr .init ∨ decode T = .instr .compress))

/-- R36, R37, R38, R252: the moves of the sequencer. In a step that is not reset, IDLE is left only by an accepted
COMPRESS of a complete block, to RUN with RND = 0; in RUN, RND stays, or goes on by 1 below 63, or PHASE becomes FOLD
after round 63; FOLD is left for IDLE only. -/
def Obligations.SequencerMoves : Prop :=
  ∀ s t : State, step s = .next t → s.sched.head? ≠ some .reset →
    (s.phase = .idle → t.phase = .idle ∨ (t.phase = .run ∧ t.rnd = 0 ∧ s.fault = false ∧ s.msgValid = 0xFFFF ∧
      ∃ T, s.issueNext.pending = some T ∧ decode T = .instr .compress)) ∧
    (s.phase = .run → (t.phase = .run ∧ t.rnd = s.rnd) ∨ (t.phase = .run ∧ s.rnd.toNat < 63 ∧ t.rnd = s.rnd + 1) ∨
      (t.phase = .fold ∧ s.rnd = 63 ∧ t.rnd = 0)) ∧
    (s.phase = .fold → (t.phase = .fold ∨ t.phase = .idle) ∧ t.rnd = s.rnd)

/-- R300, R302: the engine moves in a step exactly when the step emits, and then it emits one record, that of the round
or the fold done, answers nothing, and leaves the engine as its step of R250 or R251 does. In every other step the trace
stays, and unless the step is reset or the engine idle, so does the whole engine. -/
def Obligations.TraceGrowsByEngineStepsOnly : Prop :=
  ∀ s t : State, step s = .next t →
    (t.trace = s.trace ∧ (s.sched.head? = some .reset ∨ s.phase = .idle ∨ SameEngine s t)) ∨
    (s.sched.head? ≠ some .reset ∧ SameEngine s.engineStep t ∧ t.responses = s.responses ∧
      ((s.phase = .run ∧ t.trace = s.trace ++ [.roundSnap s.blkcnt s.rnd t.wr] ∧
        (if s.rnd = 63 then t.phase = .fold ∧ t.rnd = 0 else t.phase = .run ∧ t.rnd = s.rnd + 1)) ∨
       (s.phase = .fold ∧ t.trace = s.trace ++ [.blockSnap s.blkcnt t.h] ∧ t.phase = .idle)))

/-- R230: a step answers at most one transaction, one that was on the port or that the host issues in this step, and
takes it off the port; without an answer, a transaction on the port stays there. -/
def Obligations.OneAnswerPerTransaction : Prop :=
  ∀ s t : State, step s = .next t →
    (t.responses = s.responses ∧ ∀ T, s.pending = some T → t.pending = some T) ∨
    (∃ r, t.responses = s.responses ++ [r] ∧ t.pending = none ∧ s.issueNext.pending ≠ none)

/-- R50, R15: what the spec leaves unspecified is never read. Two states that agree on all that the rules have written
step to outcomes of one kind, and to next states that again agree: same answers, same trace, same H, whatever the
unwritten registers hold. -/
def Obligations.UnwrittenStateIsNeverRead : Prop :=
  ∀ s t : State, SameDefined s t → SameOutcome SameDefined (step s) (step t)

/- The compression function -/

/-- R188 (R186, R187): the first sixteen words of Sched(MSG) are the message words, and each later one is R187's sum of
four earlier ones. -/
def Obligations.ScheduleFollowsRecurrence : Prop :=
  ∀ m : MsgWords,
    (∀ k : Fin 16, (sched m)[k.val] = m[k]) ∧
    (∀ k : Fin 64, 16 ≤ k.val → (sched m)[k] =
      ssig1 (sched m)[k - 2] + (sched m)[k - 7] + ssig0 (sched m)[k - 15] + (sched m)[k - 16])

/-- R35, R187: a sliding window of sixteen words gives the same schedule as the 64-entry array. -/
def Obligations.SlidingWindowGivesSchedule : Prop :=
  ∀ (m : MsgWords) (n : Fin 49) (i : Fin 16), (windowUpTo m n)[i] = (sched m)[n.val + i.val]

/-- R180, R181: Ch and Maj as R180 and R181 define them, bit by bit (a bit of x chooses the bit of y or of z; the
majority of three bits), with their corner cases and examples. -/
def Obligations.ChooseAndMajorityByBits : Prop :=
  (∀ x y z : Word, ch x y z = (x &&& y) ^^^ (~~~x &&& z) ∧ maj x y z = (x &&& y) ^^^ (x &&& z) ^^^ (y &&& z)) ∧
  (∀ (x y z : Word) (i : Nat), (ch x y z).getLsbD i = if x.getLsbD i then y.getLsbD i else z.getLsbD i) ∧
  (∀ (x y z : Word) (i : Nat), (maj x y z).getLsbD i = decide (2 ≤ [x, y, z].countP fun v => v.getLsbD i)) ∧
  (∀ y z : Word, ch 0xFFFFFFFF y z = y ∧ ch 0 y z = z ∧ ch z y y = y) ∧
  (∀ x y z : Word, maj x x z = x ∧ maj x y y = y ∧ maj x (~~~x) z = z) ∧
  ch 0x510e527f 0x9b05688c 0x1f83d9ab = 0x1f85c98c ∧ maj 0x6a09e667 0xbb67ae85 0x3c6ef372 = 0x3a6fe667

/-- R13, R182 to R185: the four sigma functions, bit by bit: bit i of a rotation right by n is bit i + n modulo 32, and
bit i of a shift right by n is bit i + n, 0 past the top; with their corner cases and examples. -/
def Obligations.SigmasByBits : Prop :=
  (bsig0 0 = 0 ∧ bsig0 0xFFFFFFFF = 0xFFFFFFFF ∧ bsig0 0x6a09e667 = 0xce20b47e) ∧
  (bsig1 0 = 0 ∧ bsig1 0xFFFFFFFF = 0xFFFFFFFF ∧ bsig1 0x510e527f = 0x3587272b) ∧
  (ssig0 0 = 0 ∧ ssig0 0xFFFFFFFF = 0x1FFFFFFF ∧ ssig0 0x61626380 = 0x940e90ef) ∧
  (ssig1 0 = 0 ∧ ssig1 0xFFFFFFFF = 0x003FFFFF ∧ ssig1 0x00000018 = 0x000f0000) ∧
  ∀ (x : Word) (i : Nat), i < 32 →
    (bsig0 x).getLsbD i =
      (x.getLsbD ((i + 2) % 32) ^^ x.getLsbD ((i + 13) % 32) ^^ x.getLsbD ((i + 22) % 32)) ∧
    (bsig1 x).getLsbD i =
      (x.getLsbD ((i + 6) % 32) ^^ x.getLsbD ((i + 11) % 32) ^^ x.getLsbD ((i + 25) % 32)) ∧
    (ssig0 x).getLsbD i =
      (x.getLsbD ((i + 7) % 32) ^^ x.getLsbD ((i + 18) % 32) ^^ (decide (i + 3 < 32) && x.getLsbD (i + 3))) ∧
    (ssig1 x).getLsbD i =
      (x.getLsbD ((i + 17) % 32) ^^ x.getLsbD ((i + 19) % 32) ^^ (decide (i + 10 < 32) && x.getLsbD (i + 10)))

/-- R44, R45 (values the spec marks as general knowledge): K[i] is the 32 fraction bits of the cube root of the i-th
prime, and IV[i] of its square root. -/
def Obligations.ConstantsAreRootsOfPrimes : Prop :=
  firstPrimes.length = 64 ∧ (∀ p ∈ firstPrimes, p.Prime) ∧ firstPrimes.Pairwise (· < ·) ∧
  (∀ q < 312, q.Prime → q ∈ firstPrimes) ∧
  (∀ i : Fin 64, ∃ c : Nat, c < 8 ∧
    (c * 2 ^ 32 + (kAt (BitVec.ofFin i)).toNat) ^ 3 ≤ firstPrimes.getD i 0 * 2 ^ 96 ∧
    firstPrimes.getD i 0 * 2 ^ 96 < (c * 2 ^ 32 + (kAt (BitVec.ofFin i)).toNat + 1) ^ 3) ∧
  (∀ i : Fin 8, ∃ c : Nat, c < 8 ∧
    (c * 2 ^ 32 + iv[i].toNat) ^ 2 ≤ firstPrimes.getD i 0 * 2 ^ 64 ∧
    firstPrimes.getD i 0 * 2 ^ 64 < (c * 2 ^ 32 + iv[i].toNat + 1) ^ 2)

/- Padding and host programs -/

/-- R162: the padding laws. The padded length is a multiple of 64 and at least L + 9; `original` undoes `pad` below
2^61 bytes; the last eight bytes, read big-endian, are 8 L modulo 2^64. -/
def Obligations.PaddingLaws : Prop :=
  ∀ m : List Byte,
    (blockBytes (pad m)).length % 64 = 0 ∧ m.length + 9 ≤ (blockBytes (pad m)).length ∧
    (m.length < 2 ^ 61 → original (pad m) = m) ∧
    bigEndianNat ((blockBytes (pad m)).drop ((blockBytes (pad m)).length - 8)) = 8 * m.length % 2 ^ 64

/-- R155, R156: the closed form of the padded bytes and the number of blocks. -/
def Obligations.PaddingClosedForm : Prop :=
  ∀ m : List Byte,
    (pad m).length = blockCount m.length ∧ (blockBytes (pad m)).length = 64 * blockCount m.length ∧
    ∀ k < 64 * blockCount m.length, (blockBytes (pad m)).getD k 0 =
      if k < m.length then m.getD k 0
      else if k = m.length then 0x80
      else if k < 64 * blockCount m.length - 8 then 0
      else BitVec.ofNat 8 (8 * m.length % 2 ^ 64 / 2 ^ (56 - 8 * (k - (64 * blockCount m.length - 8))))

/-- R342: HASH of an L-byte message is 1 + 17 N + 8 transactions. -/
def Obligations.HashProgramLength : Prop :=
  ∀ m : List Byte, (hashOps m).length = 1 + 17 * ((m.length + 8) / 64 + 1) + 8

/-- R124, R196, R341: the host program HASH msg, started with the engine idle and not faulted and run under any schedule
without reset, ends; its answers are OK for every write and then the eight words of SHA-256(msg). That it ends rests on
the fairness built into the model's turns (log 5 and 10). -/
def Obligations.HashProgramAnswersDigest : Prop :=
  ∀ (s : State) (m : List Byte), s.booted = true → s.noReset → s.phase = .idle → s.fault = false →
    s.pending = none → s.program = hashOps m →
    ∃ n u, runSteps n s = .next u ∧ u.final = true ∧ u.fault = false ∧
      u.h = sha256 m ∧ u.blkcnt = BitVec.ofNat 64 (blockCount m.length) ∧
      u.responses = s.responses ++ List.replicate (1 + 17 * blockCount m.length) .ok
        ++ (sha256 m).toList.map .okData

/-- R122: WAITIDLE during a compression, under the one schedule in which a poll and an engine step alternate, ends with
the compression: with r engine steps left it polls r + 1 times, and only the last poll reads BUSY = 0. (Under other
schedules the number of polls is another; that the loop ends is EveryHostProgramEnds.) The poll and the loop's foot as
entries of the host's program, which the last clause speaks of, and R122's bound taken for this schedule, are the
model's reading (log 7). -/
def Obligations.WaitIdlePollsUntilIdle : Prop :=
  ∀ (s : State) (rest : List HostOp), s.booted = true → s.phase = .run → s.pending = none →
    s.program = .waitIdle :: rest →
    s.sched = (List.replicate (65 - s.rnd.toNat) [Turn.host, Turn.engine]).flatten ++ [.host] →
    ∃ (u : State) (polls : List Word), runSteps (2 * (65 - s.rnd.toNat) + 1) s = .next u ∧ u.phase = .idle ∧
      u.pending = none ∧ polls.length = 65 - s.rnd.toNat ∧ (∀ v ∈ polls, v.getLsbD 0 = true) ∧
      u.responses = s.responses ++ polls.map .okData ++ [.okData u.status] ∧ u.status.getLsbD 0 = false ∧
      nextIssue u.responses u.program = nextIssue u.responses rest

/- Output forms and the platform -/

/-- R301, R111: two different records pack differently; a packed record has its tag at the top, then BLK, the round (0
for a block record) and the eight words in their order, the first the most significant; packed, the first RoundSnap and the
BlockSnap of "abc" are the values of 95_test_vectors.md section 6.8. The response bits tell the answers apart but for OK
and OK(0). -/
def Obligations.TracePackingLosesNothing : Prop :=
  (∀ x y : Snap, x ≠ y → x.pack ≠ y.pack) ∧
  (∀ (blk : BitVec 64) (j : BitVec 6) (r : WorkRegs),
    let p := (Snap.roundSnap blk j r).pack
    p.getLsbD 326 = false ∧ p.extractLsb' 262 64 = blk ∧ p.extractLsb' 256 6 = j ∧
    ∀ i : Fin 8, p.extractLsb' (32 * (7 - i.val)) 32 = #v[r.a, r.b, r.c, r.d, r.e, r.f, r.g, r.h][i]) ∧
  (∀ (blk : BitVec 64) (d : Digest),
    let p := (Snap.blockSnap blk d).pack
    p.getLsbD 326 = true ∧ p.extractLsb' 262 64 = blk ∧ p.extractLsb' 256 6 = 0 ∧
    ∀ i : Fin 8, p.extractLsb' (32 * (7 - i.val)) 32 = d[i]) ∧
  (Snap.roundSnap 0 0 ⟨0x5d6aebcd, 0x6a09e667, 0xbb67ae85, 0x3c6ef372, 0xfa2a4622, 0x510e527f, 0x9b05688c,
    0x1f83d9ab⟩).pack.toNat =
    0x0000000000000000005d6aebcd6a09e667bb67ae853c6ef372fa2a4622510e527f9b05688c1f83d9ab ∧
  (Snap.blockSnap 0 #v[0xba7816bf, 0x8f01cfea, 0x414140de, 0x5dae2223, 0xb00361a3, 0x96177a9c, 0xb410ff61,
    0xf20015ad]).pack.toNat =
    0x400000000000000000ba7816bf8f01cfea414140de5dae2223b00361a396177a9cb410ff61f20015ad ∧
  (∀ v : Word, (Resp.okData v).bits.toNat = v.toNat) ∧ Resp.ok.bits = 0 ∧ Resp.err.bits.toNat = 2 ^ 32

/-- R81, R82: the platform's adapter, for a window at any base: a 32-bit access inside the window reaches the engine with
its offset from the base, and its data if it is a write; one of another width is refused; one outside is not the
engine's. That the adapter decodes so is the model's choice, since R81 leaves it to the platform (log 16). -/
def Obligations.AdapterReachesWindow : Prop :=
  ∀ (base : Nat) (a : BusAccess),
    (a.address < base ∨ base + 256 ≤ a.address → adaptAccess base a = .notThisWindow) ∧
    (base ≤ a.address → a.address < base + 256 → a.sizeBits ≠ 32 → adaptAccess base a = .refusedWidth) ∧
    (base ≤ a.address → a.address < base + 256 → a.sizeBits = 32 →
      ∃ t : Txn, adaptAccess base a = .txn t ∧ t.we = a.write ∧ base + t.addr.toNat = a.address ∧
        (a.write = true → t.data = a.data))

/- Fairness -/

/-- R341, R233: with no reset in the schedule, an enabled engine step is taken: from every state with PHASE ≠ IDLE, some
number of steps later the engine is as after its own next step, whatever transactions the host offers meanwhile. That it
holds with the schedule used up, too, is the fairness that the model builds into its turns (log 4, 5 and 10). -/
def Obligations.EnabledEngineStepIsTaken : Prop :=
  ∀ s : State, s.booted = true → s.noReset → s.phase ≠ .idle →
    ∃ n u, runSteps n s = .next u ∧ SameEngine s.engineStep u

/-- R341: with no reset in the schedule, every host program made of transactions and WAITIDLE loops ends, from every state
of the engine: some number of steps later nothing is pending, the program is done and PHASE is IDLE. It rests on the
fairness of the model's turns (log 4, 5 and 10) and on its form of the host's program (log 6 and 7). -/
def Obligations.EveryHostProgramEnds : Prop :=
  ∀ s : State, s.booted = true → s.noReset → ∃ n u, runSteps n s = .next u ∧ u.final = true
end

