-- ==== Sys2Proof/Laws/Compression.lean ====
section
/-! SUPPORT. The entries of the schedule after a load and after an expansion, and the words of a fold: the small lemmas
of Machine/Compression.lean. -/

namespace Sys2Proof.Machine

theorem wAt_eq (w : Schedule) (j : BitVec 6) : wAt w j = w[j.toNat]'j.isLt := rfl

theorem getElem_eq_wAt (w : Schedule) (k : Fin 64) : w[k] = wAt w (BitVec.ofFin k) := rfl

/-- R186: the first sixteen entries are the message words, the others stay. -/
theorem getElem_loadSchedule (m : MsgWords) (w : Schedule) (k : Nat) (hk : k < 64) :
    (loadSchedule m w)[k] = if h : k < 16 then m[k] else w[k] := by
  simp [loadSchedule]

theorem expandSchedule_low {w : Schedule} {j : BitVec 6} (h : j.toNat < 16) : expandSchedule w j = w := by
  simp [expandSchedule, show ¬ 16 ≤ j.toNat by omega]

/-- R187: the one entry an expansion writes. -/
theorem wAt_expandSchedule_self {w : Schedule} {j : BitVec 6} (h : 16 ≤ j.toNat) :
    wAt (expandSchedule w j) j = scheduleWord w j := by
  simp [expandSchedule, h, wAt]

/-- R187: every other entry stays. -/
theorem wAt_expandSchedule_ne (w : Schedule) {j k : BitVec 6} (h : k ≠ j) :
    wAt (expandSchedule w j) k = wAt w k := by
  have : j.toNat ≠ k.toNat := fun e => h (BitVec.eq_of_toNat_eq e.symm)
  unfold expandSchedule
  split
  · simp [wAt, this]
  · rfl

/-- R187: a schedule word depends on the four earlier words only. -/
theorem scheduleWord_congr {v w : Schedule} {j : BitVec 6} (hj : 16 ≤ j.toNat)
    (h : ∀ k : BitVec 6, k.toNat < j.toNat → wAt v k = wAt w k) : scheduleWord v j = scheduleWord w j := by
  have lt : ∀ c : BitVec 6, 0 < c.toNat → c.toNat ≤ 16 → (j - c).toNat < j.toNat := by
    intro c h0 h1
    have := j.isLt
    rw [BitVec.toNat_sub]
    omega
  simp only [scheduleWord]
  rw [h _ (lt 2 (by decide) (by decide)), h _ (lt 7 (by decide) (by decide)), h _ (lt 15 (by decide) (by decide)),
    h _ (lt 16 (by decide) (by decide))]

/-- R192: word i of the fold. -/
theorem getElem_applyFold (h : Digest) (r : WorkRegs) (i : Nat) (hi : i < 8) :
    (applyFold h r)[i] = h[i] + r.toVec[i] := by
  simp [applyFold]

/-- R194: chaining over one block more. -/
theorem chain_append (h : Digest) (xs ys : List MsgWords) : chain h (xs ++ ys) = chain (chain h xs) ys := by
  induction xs generalizing h with
  | nil => rfl
  | cons x xs ih => simp [chain, ih]

end Sys2Proof.Machine
end

