-- ==== Sys2Proof/Laws/Decode.lean ====
section
/-! SUPPORT. The fields of a transaction word, the rows of the opcode map, and what decode answers on each kind of
word. -/

namespace Sys2Proof

/-- R110: bit i of T: DATA below bit 32, ADDR below bit 40, and WE at bit 40. -/
theorem getLsbD_txnOf (b : Bool) (a : Offset) (d : Word) (i : Nat) :
    (txnOf b a d).getLsbD i =
      if i < 32 then d.getLsbD i else if i < 40 then a.getLsbD (i - 32) else (decide (i = 40) && b) := by
  have h1 := BitVec.getLsbD_append (x := BitVec.ofBool b ++ a) (y := d) (i := i)
  have h2 := BitVec.getLsbD_append (x := BitVec.ofBool b) (y := a) (i := i - 32)
  refine h1.trans ?_
  by_cases h : i < 32
  · simp [h]
  · by_cases h8 : i < 40
    · simp [h, h8, h2, show i - 32 < 8 by omega]
    · by_cases h40 : i = 40
      · subst h40
        rw [h2]
        cases b <;> rfl
      · have : 1 ≤ i - 32 - 8 := by omega
        simp [h, h8, h2, show ¬ i - 32 < 8 by omega, BitVec.getLsbD_ofBool, h40]
        intro hh; omega

@[simp] theorem txnOf_we (b : Bool) (a : Offset) (d : Word) : Txn.we (txnOf b a d) = b := by
  rw [Txn.we, getLsbD_txnOf]
  simp

@[simp] theorem txnOf_addr (b : Bool) (a : Offset) (d : Word) : Txn.addr (txnOf b a d) = a := by
  apply BitVec.eq_of_getLsbD_eq
  intro i hi
  simp [Txn.addr, getLsbD_txnOf, hi, show 32 + i < 40 by omega]

@[simp] theorem txnOf_data (b : Bool) (a : Offset) (d : Word) : Txn.data (txnOf b a d) = d := by
  apply BitVec.eq_of_getLsbD_eq
  intro i hi
  simp [Txn.data, getLsbD_txnOf, hi]

/-- R110: T is its three fields. -/
theorem txnOf_fields (t : Txn) : txnOf t.we t.addr t.data = t := by
  apply BitVec.eq_of_getLsbD_eq
  intro i hi
  rw [getLsbD_txnOf]
  simp only [Txn.we, Txn.addr, Txn.data, BitVec.getLsbD_extractLsb']
  by_cases h : i < 32
  · simp [h]
  · by_cases h8 : i < 40
    · simp [h, h8, show i - 32 < 8 by omega, show 32 + (i - 32) = i by omega]
    · have : i = 40 := by omega
      subst this; simp

theorem txnOf_inj {b b' : Bool} {a a' : Offset} {d d' : Word} :
    txnOf b a d = txnOf b' a' d' ↔ b = b' ∧ a = a' ∧ d = d' := by
  constructor
  · intro h
    exact ⟨by simpa using congrArg Txn.we h, by simpa using congrArg Txn.addr h,
      by simpa using congrArg Txn.data h⟩
  · rintro ⟨rfl, rfl, rfl⟩; rfl

/-- Masking a word field by field. -/
theorem txnOf_and (b b' : Bool) (a a' : Offset) (d d' : Word) :
    txnOf b a d &&& txnOf b' a' d' = txnOf (b && b') (a &&& a') (d &&& d') := by
  apply BitVec.eq_of_getLsbD_eq
  intro i hi
  rw [BitVec.getLsbD_and]
  simp only [getLsbD_txnOf]
  by_cases h : i < 32
  · simp [h]
  · by_cases h8 : i < 40
    · simp [h, h8]
    · have : i = 40 := by omega
      subst this; simp

/-- A row's choice of words, by fields. -/
theorem selects_txnOf (b bm bv : Bool) (a am av : Offset) (d dm dv : Word) :
    (OpcodeRow.mk (txnOf bm am dm) (txnOf bv av dv)).selects (txnOf b a d) = true ↔
      (b && bm) = bv ∧ a &&& am = av ∧ d &&& dm = dv := by
  simp [OpcodeRow.selects, txnOf_and, txnOf_inj]

/-- R231: the row RDSTATUS is WE = 0 and ADDR = 0x04, whatever DATA. -/
theorem isRdStatus_iff (t : Txn) : isRdStatus t = true ↔ t.we = false ∧ t.addr = 0x04 := by
  have e : Instr.row .rdstatus = ⟨txnOf true 0xff 0, txnOf false 0x04 0⟩ := by decide
  conv_lhs => rw [← txnOf_fields t]
  rw [isRdStatus, e, selects_txnOf]
  have h : Txn.addr t &&& 0xff = Txn.addr t := BitVec.and_allOnes
  rw [h]
  simp

/-- R231 and R114 agree on RDSTATUS. -/
theorem decode_of_isRdStatus {t : Txn} (h : isRdStatus t = true) : decode t = .instr .rdstatus := by
  obtain ⟨hw, ha⟩ := (isRdStatus_iff t).1 h
  simp [decode, hw, ha, regAt, decodeRead]

/-- R114 through the fields of T. -/
theorem decode_txnOf (b : Bool) (a : Offset) (d : Word) :
    decode (txnOf b a d) =
      if a.extractLsb' 0 2 ≠ 0 then .fault .misaligned (accessInfo b a)
      else match regAt a with
        | none => .fault .unmapped (accessInfo b a)
        | some r => if b then decodeWrite a d r else decodeRead a r := by
  unfold decode
  simp only [txnOf_we, txnOf_addr, txnOf_data]
  try rfl

/-- R114: a named transaction is a write exactly when T[40] = 1, which is the test R232 makes. -/
theorem decode_we {t : Txn} {i : Instr} (h : decode t = .instr i) : t.we = i.isWrite := by
  unfold decode at h
  split at h
  · cases h
  · split at h
    · cases h
    · rename_i r _
      split at h
      · rename_i hw
        rw [hw]
        cases r <;> simp only [decodeWrite, decodeCommand] at h
        · split at h
          · cases h
          · split at h
            · cases h; rfl
            · split at h <;> cases h <;> rfl
        all_goals cases h
        rfl
      · rename_i hw
        have hw' : t.we = false := by simpa using hw
        rw [hw']
        cases r <;> simp only [decodeRead] at h <;> cases h <;> rfl

end Sys2Proof
end

