-- ==== Sys2Proof/Laws/PerInstr.lean ====
section
/-! SUPPORT. Statements made for every instruction, one lemma per constructor. -/

/-- 30_encoding.md rule R115: an instruction's word matches its own row of the opcode map, and WE is set exactly for a
write. -/
def Sys2Proof.Laws.OwnRow.Statement (i : Sys2Proof.Instr) : Prop :=
  i.row.selects (Sys2Proof.encode i) = true ∧ Sys2Proof.Txn.we (Sys2Proof.encode i) = i.isWrite

namespace Sys2Proof.Laws

theorem OwnRow.nop : OwnRow.Statement .nop := by constructor <;> decide

theorem OwnRow.init : OwnRow.Statement .init := by constructor <;> decide

theorem OwnRow.compress : OwnRow.Statement .compress := by constructor <;> decide

theorem OwnRow.wmsg (i : Fin 16) (d : Word) : OwnRow.Statement (.wmsg i d) := by
  have e : Instr.row (.wmsg i d) = ⟨txnOf true 0xc3 0, txnOf true 0x40 0⟩ := by
    have : Instr.row (.wmsg 0 0) = ⟨txnOf true 0xc3 0, txnOf true 0x40 0⟩ := by decide
    exact this
  refine ⟨?_, txnOf_we _ _ _⟩
  rw [e, encode, selects_txnOf]
  refine ⟨rfl, ?_, BitVec.and_zero⟩
  clear e
  revert i
  decide

theorem OwnRow.rdstatus : OwnRow.Statement .rdstatus := by constructor <;> decide

theorem OwnRow.rdblklo : OwnRow.Statement .rdblklo := by constructor <;> decide

theorem OwnRow.rdblkhi : OwnRow.Statement .rdblkhi := by constructor <;> decide

theorem OwnRow.rdfinfo : OwnRow.Statement .rdfinfo := by constructor <;> decide

theorem OwnRow.rdh (i : Fin 8) : OwnRow.Statement (.rdh i) := by
  have e : Instr.row (.rdh i) = ⟨txnOf true 0xe3 0, txnOf false 0x20 0⟩ := by
    have : Instr.row (.rdh 0) = ⟨txnOf true 0xe3 0, txnOf false 0x20 0⟩ := by decide
    exact this
  refine ⟨?_, txnOf_we _ _ _⟩
  rw [e, encode, selects_txnOf]
  refine ⟨rfl, ?_, BitVec.and_zero⟩
  clear e
  revert i
  decide

end Sys2Proof.Laws
end

