-- ==== Sys2Proof/Laws/State.lean ====
section
/-! SUPPORT. The fields of the state after each shared operation, one lemma per field, so that no later proof unfolds a
record update. -/

namespace Sys2Proof.Machine

@[simp] theorem hold_eq (s : State) : s.hold = s := rfl

@[simp] theorem respond_h (r : Resp) (s : State) : (s.respond r).h = s.h := rfl
@[simp] theorem respond_wr (r : Resp) (s : State) : (s.respond r).wr = s.wr := rfl
@[simp] theorem respond_msg (r : Resp) (s : State) : (s.respond r).msg = s.msg := rfl
@[simp] theorem respond_msgValid (r : Resp) (s : State) : (s.respond r).msgValid = s.msgValid := rfl
@[simp] theorem respond_w (r : Resp) (s : State) : (s.respond r).w = s.w := rfl
@[simp] theorem respond_phase (r : Resp) (s : State) : (s.respond r).phase = s.phase := rfl
@[simp] theorem respond_rnd (r : Resp) (s : State) : (s.respond r).rnd = s.rnd := rfl
@[simp] theorem respond_fault (r : Resp) (s : State) : (s.respond r).fault = s.fault := rfl
@[simp] theorem respond_cause (r : Resp) (s : State) : (s.respond r).cause = s.cause := rfl
@[simp] theorem respond_blkcnt (r : Resp) (s : State) : (s.respond r).blkcnt = s.blkcnt := rfl
@[simp] theorem respond_faultInfo (r : Resp) (s : State) : (s.respond r).faultInfo = s.faultInfo := rfl
@[simp] theorem respond_pending (r : Resp) (s : State) : (s.respond r).pending = none := rfl
@[simp] theorem respond_trace (r : Resp) (s : State) : (s.respond r).trace = s.trace := rfl
@[simp] theorem respond_responses (r : Resp) (s : State) : (s.respond r).responses = s.responses ++ [r] := rfl
@[simp] theorem respond_booted (r : Resp) (s : State) : (s.respond r).booted = s.booted := rfl
@[simp] theorem respond_program (r : Resp) (s : State) : (s.respond r).program = s.program := rfl
@[simp] theorem respond_sched (r : Resp) (s : State) : (s.respond r).sched = s.sched := rfl
@[simp] theorem respond_lead (r : Resp) (s : State) : (s.respond r).lead = s.lead := rfl
@[simp] theorem respond_free (r : Resp) (s : State) : (s.respond r).free = s.free := rfl

@[simp] theorem recordFault_h (c : Cause) (i : Word) (s : State) : (s.recordFault c i).h = s.h := by unfold State.recordFault; split <;> simp_all
@[simp] theorem recordFault_wr (c : Cause) (i : Word) (s : State) : (s.recordFault c i).wr = s.wr := by unfold State.recordFault; split <;> simp_all
@[simp] theorem recordFault_msg (c : Cause) (i : Word) (s : State) : (s.recordFault c i).msg = s.msg := by unfold State.recordFault; split <;> simp_all
@[simp] theorem recordFault_msgValid (c : Cause) (i : Word) (s : State) : (s.recordFault c i).msgValid = s.msgValid := by unfold State.recordFault; split <;> simp_all
@[simp] theorem recordFault_w (c : Cause) (i : Word) (s : State) : (s.recordFault c i).w = s.w := by unfold State.recordFault; split <;> simp_all
@[simp] theorem recordFault_phase (c : Cause) (i : Word) (s : State) : (s.recordFault c i).phase = s.phase := by unfold State.recordFault; split <;> simp_all
@[simp] theorem recordFault_rnd (c : Cause) (i : Word) (s : State) : (s.recordFault c i).rnd = s.rnd := by unfold State.recordFault; split <;> simp_all
@[simp] theorem recordFault_fault (c : Cause) (i : Word) (s : State) : (s.recordFault c i).fault = true := by unfold State.recordFault; split <;> simp_all
@[simp] theorem recordFault_cause (c : Cause) (i : Word) (s : State) : (s.recordFault c i).cause = if s.fault then s.cause else c := by unfold State.recordFault; split <;> simp_all
@[simp] theorem recordFault_blkcnt (c : Cause) (i : Word) (s : State) : (s.recordFault c i).blkcnt = s.blkcnt := by unfold State.recordFault; split <;> simp_all
@[simp] theorem recordFault_faultInfo (c : Cause) (i : Word) (s : State) : (s.recordFault c i).faultInfo = if s.fault then s.faultInfo else i := by unfold State.recordFault; split <;> simp_all
@[simp] theorem recordFault_pending (c : Cause) (i : Word) (s : State) : (s.recordFault c i).pending = s.pending := by unfold State.recordFault; split <;> simp_all
@[simp] theorem recordFault_trace (c : Cause) (i : Word) (s : State) : (s.recordFault c i).trace = s.trace := by unfold State.recordFault; split <;> simp_all
@[simp] theorem recordFault_responses (c : Cause) (i : Word) (s : State) : (s.recordFault c i).responses = s.responses := by unfold State.recordFault; split <;> simp_all
@[simp] theorem recordFault_booted (c : Cause) (i : Word) (s : State) : (s.recordFault c i).booted = s.booted := by unfold State.recordFault; split <;> simp_all
@[simp] theorem recordFault_program (c : Cause) (i : Word) (s : State) : (s.recordFault c i).program = s.program := by unfold State.recordFault; split <;> simp_all
@[simp] theorem recordFault_sched (c : Cause) (i : Word) (s : State) : (s.recordFault c i).sched = s.sched := by unfold State.recordFault; split <;> simp_all
@[simp] theorem recordFault_lead (c : Cause) (i : Word) (s : State) : (s.recordFault c i).lead = s.lead := by unfold State.recordFault; split <;> simp_all
@[simp] theorem recordFault_free (c : Cause) (i : Word) (s : State) : (s.recordFault c i).free = s.free := by unfold State.recordFault; split <;> simp_all

@[simp] theorem raiseFault_h (c : Cause) (i : Word) (s : State) : (s.raiseFault c i).h = s.h := by simp [State.raiseFault]
@[simp] theorem raiseFault_wr (c : Cause) (i : Word) (s : State) : (s.raiseFault c i).wr = s.wr := by simp [State.raiseFault]
@[simp] theorem raiseFault_msg (c : Cause) (i : Word) (s : State) : (s.raiseFault c i).msg = s.msg := by simp [State.raiseFault]
@[simp] theorem raiseFault_msgValid (c : Cause) (i : Word) (s : State) : (s.raiseFault c i).msgValid = s.msgValid := by simp [State.raiseFault]
@[simp] theorem raiseFault_w (c : Cause) (i : Word) (s : State) : (s.raiseFault c i).w = s.w := by simp [State.raiseFault]
@[simp] theorem raiseFault_phase (c : Cause) (i : Word) (s : State) : (s.raiseFault c i).phase = s.phase := by simp [State.raiseFault]
@[simp] theorem raiseFault_rnd (c : Cause) (i : Word) (s : State) : (s.raiseFault c i).rnd = s.rnd := by simp [State.raiseFault]
@[simp] theorem raiseFault_fault (c : Cause) (i : Word) (s : State) : (s.raiseFault c i).fault = true := by simp [State.raiseFault]
@[simp] theorem raiseFault_cause (c : Cause) (i : Word) (s : State) : (s.raiseFault c i).cause = if s.fault then s.cause else c := by simp [State.raiseFault]
@[simp] theorem raiseFault_blkcnt (c : Cause) (i : Word) (s : State) : (s.raiseFault c i).blkcnt = s.blkcnt := by simp [State.raiseFault]
@[simp] theorem raiseFault_faultInfo (c : Cause) (i : Word) (s : State) : (s.raiseFault c i).faultInfo = if s.fault then s.faultInfo else i := by simp [State.raiseFault]
@[simp] theorem raiseFault_pending (c : Cause) (i : Word) (s : State) : (s.raiseFault c i).pending = none := by simp [State.raiseFault]
@[simp] theorem raiseFault_trace (c : Cause) (i : Word) (s : State) : (s.raiseFault c i).trace = s.trace := by simp [State.raiseFault]
@[simp] theorem raiseFault_responses (c : Cause) (i : Word) (s : State) : (s.raiseFault c i).responses = s.responses ++ [.err] := by simp [State.raiseFault]
@[simp] theorem raiseFault_booted (c : Cause) (i : Word) (s : State) : (s.raiseFault c i).booted = s.booted := by simp [State.raiseFault]
@[simp] theorem raiseFault_program (c : Cause) (i : Word) (s : State) : (s.raiseFault c i).program = s.program := by simp [State.raiseFault]
@[simp] theorem raiseFault_sched (c : Cause) (i : Word) (s : State) : (s.raiseFault c i).sched = s.sched := by simp [State.raiseFault]
@[simp] theorem raiseFault_lead (c : Cause) (i : Word) (s : State) : (s.raiseFault c i).lead = s.lead := by simp [State.raiseFault]
@[simp] theorem raiseFault_free (c : Cause) (i : Word) (s : State) : (s.raiseFault c i).free = s.free := by simp [State.raiseFault]

@[simp] theorem initDigest_h (s : State) : s.initDigest.h = iv := rfl
@[simp] theorem initDigest_wr (s : State) : s.initDigest.wr = s.wr := rfl
@[simp] theorem initDigest_msg (s : State) : s.initDigest.msg = s.msg := rfl
@[simp] theorem initDigest_msgValid (s : State) : s.initDigest.msgValid = 0 := rfl
@[simp] theorem initDigest_w (s : State) : s.initDigest.w = s.w := rfl
@[simp] theorem initDigest_phase (s : State) : s.initDigest.phase = s.phase := rfl
@[simp] theorem initDigest_rnd (s : State) : s.initDigest.rnd = s.rnd := rfl
@[simp] theorem initDigest_fault (s : State) : s.initDigest.fault = s.fault := rfl
@[simp] theorem initDigest_cause (s : State) : s.initDigest.cause = s.cause := rfl
@[simp] theorem initDigest_blkcnt (s : State) : s.initDigest.blkcnt = 0 := rfl
@[simp] theorem initDigest_faultInfo (s : State) : s.initDigest.faultInfo = s.faultInfo := rfl
@[simp] theorem initDigest_pending (s : State) : s.initDigest.pending = s.pending := rfl
@[simp] theorem initDigest_trace (s : State) : s.initDigest.trace = s.trace := rfl
@[simp] theorem initDigest_responses (s : State) : s.initDigest.responses = s.responses := rfl
@[simp] theorem initDigest_booted (s : State) : s.initDigest.booted = s.booted := rfl
@[simp] theorem initDigest_program (s : State) : s.initDigest.program = s.program := rfl
@[simp] theorem initDigest_sched (s : State) : s.initDigest.sched = s.sched := rfl
@[simp] theorem initDigest_lead (s : State) : s.initDigest.lead = s.lead := rfl
@[simp] theorem initDigest_free (s : State) : s.initDigest.free = s.free := rfl

@[simp] theorem startBlock_h (s : State) : s.startBlock.h = s.h := rfl
@[simp] theorem startBlock_wr (s : State) : s.startBlock.wr = WorkRegs.ofDigest s.h := rfl
@[simp] theorem startBlock_msg (s : State) : s.startBlock.msg = freeWords 16 s.free := rfl
@[simp] theorem startBlock_msgValid (s : State) : s.startBlock.msgValid = 0 := rfl
@[simp] theorem startBlock_w (s : State) : s.startBlock.w = loadSchedule s.msg s.w := rfl
@[simp] theorem startBlock_phase (s : State) : s.startBlock.phase = .run := rfl
@[simp] theorem startBlock_rnd (s : State) : s.startBlock.rnd = 0 := rfl
@[simp] theorem startBlock_fault (s : State) : s.startBlock.fault = s.fault := rfl
@[simp] theorem startBlock_cause (s : State) : s.startBlock.cause = s.cause := rfl
@[simp] theorem startBlock_blkcnt (s : State) : s.startBlock.blkcnt = s.blkcnt := rfl
@[simp] theorem startBlock_faultInfo (s : State) : s.startBlock.faultInfo = s.faultInfo := rfl
@[simp] theorem startBlock_pending (s : State) : s.startBlock.pending = s.pending := rfl
@[simp] theorem startBlock_trace (s : State) : s.startBlock.trace = s.trace := rfl
@[simp] theorem startBlock_responses (s : State) : s.startBlock.responses = s.responses := rfl
@[simp] theorem startBlock_booted (s : State) : s.startBlock.booted = s.booted := rfl
@[simp] theorem startBlock_program (s : State) : s.startBlock.program = s.program := rfl
@[simp] theorem startBlock_sched (s : State) : s.startBlock.sched = s.sched := rfl
@[simp] theorem startBlock_lead (s : State) : s.startBlock.lead = s.lead := rfl
@[simp] theorem startBlock_free (s : State) : s.startBlock.free = s.free + 16 := rfl

@[simp] theorem writeMsg_h (i : Fin 16) (d : Word) (s : State) : (s.writeMsg i d).h = s.h := rfl
@[simp] theorem writeMsg_wr (i : Fin 16) (d : Word) (s : State) : (s.writeMsg i d).wr = s.wr := rfl
@[simp] theorem writeMsg_msg (i : Fin 16) (d : Word) (s : State) : (s.writeMsg i d).msg = setMsg s.msg i d := rfl
@[simp] theorem writeMsg_msgValid (i : Fin 16) (d : Word) (s : State) : (s.writeMsg i d).msgValid = setValid s.msgValid i := rfl
@[simp] theorem writeMsg_w (i : Fin 16) (d : Word) (s : State) : (s.writeMsg i d).w = s.w := rfl
@[simp] theorem writeMsg_phase (i : Fin 16) (d : Word) (s : State) : (s.writeMsg i d).phase = s.phase := rfl
@[simp] theorem writeMsg_rnd (i : Fin 16) (d : Word) (s : State) : (s.writeMsg i d).rnd = s.rnd := rfl
@[simp] theorem writeMsg_fault (i : Fin 16) (d : Word) (s : State) : (s.writeMsg i d).fault = s.fault := rfl
@[simp] theorem writeMsg_cause (i : Fin 16) (d : Word) (s : State) : (s.writeMsg i d).cause = s.cause := rfl
@[simp] theorem writeMsg_blkcnt (i : Fin 16) (d : Word) (s : State) : (s.writeMsg i d).blkcnt = s.blkcnt := rfl
@[simp] theorem writeMsg_faultInfo (i : Fin 16) (d : Word) (s : State) : (s.writeMsg i d).faultInfo = s.faultInfo := rfl
@[simp] theorem writeMsg_pending (i : Fin 16) (d : Word) (s : State) : (s.writeMsg i d).pending = s.pending := rfl
@[simp] theorem writeMsg_trace (i : Fin 16) (d : Word) (s : State) : (s.writeMsg i d).trace = s.trace := rfl
@[simp] theorem writeMsg_responses (i : Fin 16) (d : Word) (s : State) : (s.writeMsg i d).responses = s.responses := rfl
@[simp] theorem writeMsg_booted (i : Fin 16) (d : Word) (s : State) : (s.writeMsg i d).booted = s.booted := rfl
@[simp] theorem writeMsg_program (i : Fin 16) (d : Word) (s : State) : (s.writeMsg i d).program = s.program := rfl
@[simp] theorem writeMsg_sched (i : Fin 16) (d : Word) (s : State) : (s.writeMsg i d).sched = s.sched := rfl
@[simp] theorem writeMsg_lead (i : Fin 16) (d : Word) (s : State) : (s.writeMsg i d).lead = s.lead := rfl
@[simp] theorem writeMsg_free (i : Fin 16) (d : Word) (s : State) : (s.writeMsg i d).free = s.free := rfl

@[simp] theorem roundStep_h (s : State) : s.roundStep.h = s.h := rfl
@[simp] theorem roundStep_wr (s : State) : s.roundStep.wr = applyRound s.rnd s.wr (wAt (expandSchedule s.w s.rnd) s.rnd) := rfl
@[simp] theorem roundStep_msg (s : State) : s.roundStep.msg = s.msg := rfl
@[simp] theorem roundStep_msgValid (s : State) : s.roundStep.msgValid = s.msgValid := rfl
@[simp] theorem roundStep_w (s : State) : s.roundStep.w = expandSchedule s.w s.rnd := rfl
@[simp] theorem roundStep_phase (s : State) : s.roundStep.phase = if s.rnd = 63 then .fold else .run := rfl
@[simp] theorem roundStep_rnd (s : State) : s.roundStep.rnd = if s.rnd = 63 then 0 else s.rnd + 1 := rfl
@[simp] theorem roundStep_fault (s : State) : s.roundStep.fault = s.fault := rfl
@[simp] theorem roundStep_cause (s : State) : s.roundStep.cause = s.cause := rfl
@[simp] theorem roundStep_blkcnt (s : State) : s.roundStep.blkcnt = s.blkcnt := rfl
@[simp] theorem roundStep_faultInfo (s : State) : s.roundStep.faultInfo = s.faultInfo := rfl
@[simp] theorem roundStep_pending (s : State) : s.roundStep.pending = s.pending := rfl
@[simp] theorem roundStep_trace (s : State) : s.roundStep.trace = s.trace ++ [.roundSnap s.blkcnt s.rnd (applyRound s.rnd s.wr (wAt (expandSchedule s.w s.rnd) s.rnd))] := rfl
@[simp] theorem roundStep_responses (s : State) : s.roundStep.responses = s.responses := rfl
@[simp] theorem roundStep_booted (s : State) : s.roundStep.booted = s.booted := rfl
@[simp] theorem roundStep_program (s : State) : s.roundStep.program = s.program := rfl
@[simp] theorem roundStep_sched (s : State) : s.roundStep.sched = s.sched := rfl
@[simp] theorem roundStep_lead (s : State) : s.roundStep.lead = s.lead := rfl
@[simp] theorem roundStep_free (s : State) : s.roundStep.free = s.free := rfl

@[simp] theorem foldStep_h (s : State) : s.foldStep.h = applyFold s.h s.wr := rfl
@[simp] theorem foldStep_wr (s : State) : s.foldStep.wr = s.wr := rfl
@[simp] theorem foldStep_msg (s : State) : s.foldStep.msg = s.msg := rfl
@[simp] theorem foldStep_msgValid (s : State) : s.foldStep.msgValid = s.msgValid := rfl
@[simp] theorem foldStep_w (s : State) : s.foldStep.w = s.w := rfl
@[simp] theorem foldStep_phase (s : State) : s.foldStep.phase = .idle := rfl
@[simp] theorem foldStep_rnd (s : State) : s.foldStep.rnd = s.rnd := rfl
@[simp] theorem foldStep_fault (s : State) : s.foldStep.fault = s.fault := rfl
@[simp] theorem foldStep_cause (s : State) : s.foldStep.cause = s.cause := rfl
@[simp] theorem foldStep_blkcnt (s : State) : s.foldStep.blkcnt = s.blkcnt + 1 := rfl
@[simp] theorem foldStep_faultInfo (s : State) : s.foldStep.faultInfo = s.faultInfo := rfl
@[simp] theorem foldStep_pending (s : State) : s.foldStep.pending = s.pending := rfl
@[simp] theorem foldStep_trace (s : State) : s.foldStep.trace = s.trace ++ [.blockSnap s.blkcnt (applyFold s.h s.wr)] := rfl
@[simp] theorem foldStep_responses (s : State) : s.foldStep.responses = s.responses := rfl
@[simp] theorem foldStep_booted (s : State) : s.foldStep.booted = s.booted := rfl
@[simp] theorem foldStep_program (s : State) : s.foldStep.program = s.program := rfl
@[simp] theorem foldStep_sched (s : State) : s.foldStep.sched = s.sched := rfl
@[simp] theorem foldStep_lead (s : State) : s.foldStep.lead = s.lead := rfl
@[simp] theorem foldStep_free (s : State) : s.foldStep.free = s.free := rfl

@[simp] theorem resetEvent_h (s : State) : s.resetEvent.h = iv := rfl
@[simp] theorem resetEvent_wr (s : State) : s.resetEvent.wr = WorkRegs.ofDigest (freeWords 8 s.free) := rfl
@[simp] theorem resetEvent_msg (s : State) : s.resetEvent.msg = freeWords 16 (s.free + 8) := rfl
@[simp] theorem resetEvent_msgValid (s : State) : s.resetEvent.msgValid = 0 := rfl
@[simp] theorem resetEvent_w (s : State) : s.resetEvent.w = freeWords 64 (s.free + 24) := rfl
@[simp] theorem resetEvent_phase (s : State) : s.resetEvent.phase = .idle := rfl
@[simp] theorem resetEvent_rnd (s : State) : s.resetEvent.rnd = 0 := rfl
@[simp] theorem resetEvent_fault (s : State) : s.resetEvent.fault = false := rfl
@[simp] theorem resetEvent_cause (s : State) : s.resetEvent.cause = .none := rfl
@[simp] theorem resetEvent_blkcnt (s : State) : s.resetEvent.blkcnt = 0 := rfl
@[simp] theorem resetEvent_faultInfo (s : State) : s.resetEvent.faultInfo = 0 := rfl
@[simp] theorem resetEvent_pending (s : State) : s.resetEvent.pending = none := rfl
@[simp] theorem resetEvent_trace (s : State) : s.resetEvent.trace = s.trace := rfl
@[simp] theorem resetEvent_responses (s : State) : s.resetEvent.responses = if s.pending.isSome then s.responses ++ [.err] else s.responses := rfl
@[simp] theorem resetEvent_booted (s : State) : s.resetEvent.booted = true := rfl
@[simp] theorem resetEvent_program (s : State) : s.resetEvent.program = s.program := rfl
@[simp] theorem resetEvent_sched (s : State) : s.resetEvent.sched = s.sched := rfl
@[simp] theorem resetEvent_lead (s : State) : s.resetEvent.lead = none := rfl
@[simp] theorem resetEvent_free (s : State) : s.resetEvent.free = s.free + 88 := rfl

@[simp] theorem offer_h (t : Txn) (s : State) : (s.offer t).h = s.h := rfl
@[simp] theorem offer_wr (t : Txn) (s : State) : (s.offer t).wr = s.wr := rfl
@[simp] theorem offer_msg (t : Txn) (s : State) : (s.offer t).msg = s.msg := rfl
@[simp] theorem offer_msgValid (t : Txn) (s : State) : (s.offer t).msgValid = s.msgValid := rfl
@[simp] theorem offer_w (t : Txn) (s : State) : (s.offer t).w = s.w := rfl
@[simp] theorem offer_phase (t : Txn) (s : State) : (s.offer t).phase = s.phase := rfl
@[simp] theorem offer_rnd (t : Txn) (s : State) : (s.offer t).rnd = s.rnd := rfl
@[simp] theorem offer_fault (t : Txn) (s : State) : (s.offer t).fault = s.fault := rfl
@[simp] theorem offer_cause (t : Txn) (s : State) : (s.offer t).cause = s.cause := rfl
@[simp] theorem offer_blkcnt (t : Txn) (s : State) : (s.offer t).blkcnt = s.blkcnt := rfl
@[simp] theorem offer_faultInfo (t : Txn) (s : State) : (s.offer t).faultInfo = s.faultInfo := rfl
@[simp] theorem offer_pending (t : Txn) (s : State) : (s.offer t).pending = some t := rfl
@[simp] theorem offer_trace (t : Txn) (s : State) : (s.offer t).trace = s.trace := rfl
@[simp] theorem offer_responses (t : Txn) (s : State) : (s.offer t).responses = s.responses := rfl
@[simp] theorem offer_booted (t : Txn) (s : State) : (s.offer t).booted = s.booted := rfl
@[simp] theorem offer_program (t : Txn) (s : State) : (s.offer t).program = s.program := rfl
@[simp] theorem offer_sched (t : Txn) (s : State) : (s.offer t).sched = .host :: s.sched := rfl
@[simp] theorem offer_lead (t : Txn) (s : State) : (s.offer t).lead = s.lead := rfl
@[simp] theorem offer_free (t : Txn) (s : State) : (s.offer t).free = s.free := rfl

end Sys2Proof.Machine
end

