-- ==== Sys2Proof/Laws/Port.lean ====
section
/-! SUPPORT. What each move of the machine can do, said once: the fields that issuing, taking a turn and an engine step
leave alone, and the inversion lemmas of an accepted transaction (exec_cases, hostAccept_cases) and of a step
(step_cases). -/

namespace Sys2Proof.Machine

@[simp] theorem issueNext_h (s : State) : s.issueNext.h = s.h := by
  unfold State.issueNext; split <;> rfl
@[simp] theorem issueNext_wr (s : State) : s.issueNext.wr = s.wr := by
  unfold State.issueNext; split <;> rfl
@[simp] theorem issueNext_msg (s : State) : s.issueNext.msg = s.msg := by
  unfold State.issueNext; split <;> rfl
@[simp] theorem issueNext_msgValid (s : State) : s.issueNext.msgValid = s.msgValid := by
  unfold State.issueNext; split <;> rfl
@[simp] theorem issueNext_w (s : State) : s.issueNext.w = s.w := by
  unfold State.issueNext; split <;> rfl
@[simp] theorem issueNext_phase (s : State) : s.issueNext.phase = s.phase := by
  unfold State.issueNext; split <;> rfl
@[simp] theorem issueNext_rnd (s : State) : s.issueNext.rnd = s.rnd := by
  unfold State.issueNext; split <;> rfl
@[simp] theorem issueNext_fault (s : State) : s.issueNext.fault = s.fault := by
  unfold State.issueNext; split <;> rfl
@[simp] theorem issueNext_cause (s : State) : s.issueNext.cause = s.cause := by
  unfold State.issueNext; split <;> rfl
@[simp] theorem issueNext_blkcnt (s : State) : s.issueNext.blkcnt = s.blkcnt := by
  unfold State.issueNext; split <;> rfl
@[simp] theorem issueNext_faultInfo (s : State) : s.issueNext.faultInfo = s.faultInfo := by
  unfold State.issueNext; split <;> rfl
@[simp] theorem issueNext_trace (s : State) : s.issueNext.trace = s.trace := by
  unfold State.issueNext; split <;> rfl
@[simp] theorem issueNext_responses (s : State) : s.issueNext.responses = s.responses := by
  unfold State.issueNext; split <;> rfl
@[simp] theorem issueNext_booted (s : State) : s.issueNext.booted = s.booted := by
  unfold State.issueNext; split <;> rfl
@[simp] theorem issueNext_sched (s : State) : s.issueNext.sched = s.sched := by
  unfold State.issueNext; split <;> rfl
@[simp] theorem issueNext_lead (s : State) : s.issueNext.lead = s.lead := by
  unfold State.issueNext; split <;> rfl
@[simp] theorem issueNext_free (s : State) : s.issueNext.free = s.free := by
  unfold State.issueNext; split <;> rfl

@[simp] theorem takeTurn_h (s : State) : s.takeTurn.2.h = s.h := by
  unfold State.takeTurn; split <;> (try split) <;> rfl
@[simp] theorem takeTurn_wr (s : State) : s.takeTurn.2.wr = s.wr := by
  unfold State.takeTurn; split <;> (try split) <;> rfl
@[simp] theorem takeTurn_msg (s : State) : s.takeTurn.2.msg = s.msg := by
  unfold State.takeTurn; split <;> (try split) <;> rfl
@[simp] theorem takeTurn_msgValid (s : State) : s.takeTurn.2.msgValid = s.msgValid := by
  unfold State.takeTurn; split <;> (try split) <;> rfl
@[simp] theorem takeTurn_w (s : State) : s.takeTurn.2.w = s.w := by
  unfold State.takeTurn; split <;> (try split) <;> rfl
@[simp] theorem takeTurn_phase (s : State) : s.takeTurn.2.phase = s.phase := by
  unfold State.takeTurn; split <;> (try split) <;> rfl
@[simp] theorem takeTurn_rnd (s : State) : s.takeTurn.2.rnd = s.rnd := by
  unfold State.takeTurn; split <;> (try split) <;> rfl
@[simp] theorem takeTurn_fault (s : State) : s.takeTurn.2.fault = s.fault := by
  unfold State.takeTurn; split <;> (try split) <;> rfl
@[simp] theorem takeTurn_cause (s : State) : s.takeTurn.2.cause = s.cause := by
  unfold State.takeTurn; split <;> (try split) <;> rfl
@[simp] theorem takeTurn_blkcnt (s : State) : s.takeTurn.2.blkcnt = s.blkcnt := by
  unfold State.takeTurn; split <;> (try split) <;> rfl
@[simp] theorem takeTurn_faultInfo (s : State) : s.takeTurn.2.faultInfo = s.faultInfo := by
  unfold State.takeTurn; split <;> (try split) <;> rfl
@[simp] theorem takeTurn_pending (s : State) : s.takeTurn.2.pending = s.pending := by
  unfold State.takeTurn; split <;> (try split) <;> rfl
@[simp] theorem takeTurn_trace (s : State) : s.takeTurn.2.trace = s.trace := by
  unfold State.takeTurn; split <;> (try split) <;> rfl
@[simp] theorem takeTurn_responses (s : State) : s.takeTurn.2.responses = s.responses := by
  unfold State.takeTurn; split <;> (try split) <;> rfl
@[simp] theorem takeTurn_booted (s : State) : s.takeTurn.2.booted = s.booted := by
  unfold State.takeTurn; split <;> (try split) <;> rfl
@[simp] theorem takeTurn_program (s : State) : s.takeTurn.2.program = s.program := by
  unfold State.takeTurn; split <;> (try split) <;> rfl

@[simp] theorem engineStep_msg (s : State) : s.engineStep.msg = s.msg := by
  unfold State.engineStep; split <;> rfl
@[simp] theorem engineStep_msgValid (s : State) : s.engineStep.msgValid = s.msgValid := by
  unfold State.engineStep; split <;> rfl
@[simp] theorem engineStep_fault (s : State) : s.engineStep.fault = s.fault := by
  unfold State.engineStep; split <;> rfl
@[simp] theorem engineStep_cause (s : State) : s.engineStep.cause = s.cause := by
  unfold State.engineStep; split <;> rfl
@[simp] theorem engineStep_faultInfo (s : State) : s.engineStep.faultInfo = s.faultInfo := by
  unfold State.engineStep; split <;> rfl
@[simp] theorem engineStep_pending (s : State) : s.engineStep.pending = s.pending := by
  unfold State.engineStep; split <;> rfl
@[simp] theorem engineStep_responses (s : State) : s.engineStep.responses = s.responses := by
  unfold State.engineStep; split <;> rfl
@[simp] theorem engineStep_booted (s : State) : s.engineStep.booted = s.booted := by
  unfold State.engineStep; split <;> rfl
@[simp] theorem engineStep_program (s : State) : s.engineStep.program = s.program := by
  unfold State.engineStep; split <;> rfl
@[simp] theorem engineStep_sched (s : State) : s.engineStep.sched = s.sched := by
  unfold State.engineStep; split <;> rfl
@[simp] theorem engineStep_lead (s : State) : s.engineStep.lead = s.lead := by
  unfold State.engineStep; split <;> rfl
@[simp] theorem engineStep_free (s : State) : s.engineStep.free = s.free := by
  unfold State.engineStep; split <;> rfl

theorem engineStep_idle {s : State} (h : s.phase = .idle) : s.engineStep = s := by simp [State.engineStep, h]

theorem engineStep_run {s : State} (h : s.phase = .run) : s.engineStep = s.roundStep := by
  simp [State.engineStep, h]

theorem engineStep_fold {s : State} (h : s.phase = .fold) : s.engineStep = s.foldStep := by
  simp [State.engineStep, h]

theorem busy_false_iff (s : State) : s.busy = false ↔ s.phase = .idle := by
  cases h : s.phase <;> simp [State.busy, h]

theorem busy_true_iff (s : State) : s.busy = true ↔ s.phase ≠ .idle := by
  cases h : s.phase <;> simp [State.busy, h]

theorem issueNext_of_pending {s : State} {t : Txn} (h : s.pending = some t) : s.issueNext = s := by
  simp [State.issueNext, h]

theorem acceptWrite_busy {s : State} (e : State → State) (h : s.busy = true) : s.acceptWrite e = s := by
  simp [State.acceptWrite, h]

theorem acceptWrite_faulted {s : State} (e : State → State) (hb : s.phase = .idle) (hf : s.fault = true) :
    s.acceptWrite e = s.respond .err := by
  simp [State.acceptWrite, (busy_false_iff s).2 hb, hf]

theorem acceptWrite_go {s : State} (e : State → State) (hb : s.phase = .idle) (hf : s.fault = false) :
    s.acceptWrite e = e s := by
  simp [State.acceptWrite, (busy_false_iff s).2 hb, hf]

theorem acceptRead_busy {s : State} (v : State → Word) (h : s.busy = true) : s.acceptRead v = s := by
  simp [State.acceptRead, h]

theorem acceptRead_idle {s : State} (v : State → Word) (h : s.phase = .idle) :
    s.acceptRead v = s.respond (.okData (v s)) := by
  simp [State.acceptRead, (busy_false_iff s).2 h]

/-- What a write can do: be held, be answered ERR, or have its effect. -/
theorem acceptWrite_cases (e : State → State) (s : State) :
    (s.busy = true ∧ s.acceptWrite e = s) ∨
    (s.phase = .idle ∧ s.fault = true ∧ s.acceptWrite e = s.respond .err) ∨
    (s.phase = .idle ∧ s.fault = false ∧ s.acceptWrite e = e s) := by
  cases hb : s.busy
  · have hi := (busy_false_iff s).1 hb
    cases hf : s.fault
    · exact .inr (.inr ⟨hi, rfl, acceptWrite_go e hi hf⟩)
    · exact .inr (.inl ⟨hi, rfl, acceptWrite_faulted e hi hf⟩)
  · exact .inl ⟨rfl, acceptWrite_busy e hb⟩

/-- What a read but RDSTATUS can do: be held, or be answered. -/
theorem acceptRead_cases (v : State → Word) (s : State) :
    (s.busy = true ∧ s.acceptRead v = s) ∨ (s.phase = .idle ∧ s.acceptRead v = s.respond (.okData (v s))) := by
  cases hb : s.busy
  · exact .inr ⟨(busy_false_iff s).1 hb, acceptRead_idle v ((busy_false_iff s).1 hb)⟩
  · exact .inl ⟨rfl, acceptRead_busy v hb⟩

/-- What a named transaction can do to an idle engine that is not faulted, beyond answering. -/
inductive Accepted (s : State) : Instr → State → Prop where
  | init : Accepted s .init (s.initDigest.respond .ok)
  | compress (h : s.blockComplete = true) : Accepted s .compress (s.startBlock.respond .ok)
  | incomplete (h : s.blockComplete = false) :
      Accepted s .compress (s.raiseFault .incompleteBlock (s.msgValid.setWidth 32))
  | wmsg (k : Fin 16) (d : Word) : Accepted s (.wmsg k d) ((s.writeMsg k d).respond .ok)

/-- Everything exec can do: hold while busy, answer and change nothing, or one of the effects of Accepted. -/
theorem exec_cases {i : Instr} {s t : State} (h : exec i s = .next t) :
    (s.busy = true ∧ i ≠ .rdstatus ∧ t = s) ∨ (∃ r, t = s.respond r) ∨
    (s.phase = .idle ∧ s.fault = false ∧ Accepted s i t) := by
  cases i with
  | nop =>
    obtain ⟨hb, e⟩ | ⟨_, _, e⟩ | ⟨_, _, e⟩ := acceptWrite_cases (fun s => s.respond .ok) s <;>
      simp only [exec, execNop, e, Host.Outcome.next.injEq] at h
    · exact .inl ⟨hb, by simp, h.symm⟩
    · exact .inr (.inl ⟨_, h.symm⟩)
    · exact .inr (.inl ⟨_, h.symm⟩)
  | init =>
    obtain ⟨hb, e⟩ | ⟨_, _, e⟩ | ⟨hp, hf, e⟩ := acceptWrite_cases (fun s => s.initDigest.respond .ok) s <;>
      simp only [exec, execInit, e, Host.Outcome.next.injEq] at h
    · exact .inl ⟨hb, by simp, h.symm⟩
    · exact .inr (.inl ⟨_, h.symm⟩)
    · exact .inr (.inr ⟨hp, hf, h ▸ .init⟩)
  | compress =>
    obtain ⟨hb, e⟩ | ⟨_, _, e⟩ | ⟨hp, hf, e⟩ := acceptWrite_cases (fun s =>
        if s.blockComplete then s.startBlock.respond .ok
        else s.raiseFault .incompleteBlock (s.msgValid.setWidth 32)) s <;>
      simp only [exec, execCompress, e, Host.Outcome.next.injEq] at h
    · exact .inl ⟨hb, by simp, h.symm⟩
    · exact .inr (.inl ⟨_, h.symm⟩)
    · refine .inr (.inr ⟨hp, hf, ?_⟩)
      cases hc : s.blockComplete <;> simp only [hc, if_true, Bool.false_eq_true, if_false] at h
      · exact h ▸ .incomplete hc
      · exact h ▸ .compress hc
  | wmsg k d =>
    obtain ⟨hb, e⟩ | ⟨_, _, e⟩ | ⟨hp, hf, e⟩ := acceptWrite_cases (fun s => (s.writeMsg k d).respond .ok) s <;>
      simp only [exec, execWmsg, e, Host.Outcome.next.injEq] at h
    · exact .inl ⟨hb, by simp, h.symm⟩
    · exact .inr (.inl ⟨_, h.symm⟩)
    · exact .inr (.inr ⟨hp, hf, h ▸ .wmsg k d⟩)
  | rdstatus =>
    simp only [exec, execRdstatus, Host.Outcome.next.injEq] at h
    exact .inr (.inl ⟨_, h.symm⟩)
  | rdblklo =>
    obtain ⟨hb, e⟩ | ⟨_, e⟩ := acceptRead_cases State.blkLo s <;>
      simp only [exec, execRdblklo, e, Host.Outcome.next.injEq] at h
    · exact .inl ⟨hb, by simp, h.symm⟩
    · exact .inr (.inl ⟨_, h.symm⟩)
  | rdblkhi =>
    obtain ⟨hb, e⟩ | ⟨_, e⟩ := acceptRead_cases State.blkHi s <;>
      simp only [exec, execRdblkhi, e, Host.Outcome.next.injEq] at h
    · exact .inl ⟨hb, by simp, h.symm⟩
    · exact .inr (.inl ⟨_, h.symm⟩)
  | rdfinfo =>
    obtain ⟨hb, e⟩ | ⟨_, e⟩ := acceptRead_cases State.faultInfo s <;>
      simp only [exec, execRdfinfo, e, Host.Outcome.next.injEq] at h
    · exact .inl ⟨hb, by simp, h.symm⟩
    · exact .inr (.inl ⟨_, h.symm⟩)
  | rdh k =>
    obtain ⟨hb, e⟩ | ⟨_, e⟩ := acceptRead_cases (fun s => s.digestWord k) s <;>
      simp only [exec, execRdh, e, Host.Outcome.next.injEq] at h
    · exact .inl ⟨hb, by simp, h.symm⟩
    · exact .inr (.inl ⟨_, h.symm⟩)

/-- exec always answers a next state (R243: no refusal arm). -/
theorem exec_next (i : Instr) (s : State) : ∃ t, exec i s = .next t := by
  cases i <;> exact ⟨_, rfl⟩

theorem hostAccept_next (T : Txn) (s : State) : ∃ t, hostAccept T s = .next t := by
  unfold hostAccept
  split
  · exact ⟨_, rfl⟩
  · exact exec_next _ _

/-- Decode never answers the causes NONE and INCOMPLETE_BLOCK. -/
theorem decode_fault_cause {T : Txn} {c : Cause} {info : Word} (h : decode T = .fault c info) :
    c ≠ .none ∧ c ≠ .incompleteBlock := by
  unfold decode at h
  split at h
  · cases h; simp
  · split at h
    · cases h; simp
    · rename_i r _
      split at h
      · cases r <;> simp only [decodeWrite, decodeCommand] at h
        · split at h
          · cases h; simp
          · split at h
            · cases h
            · split at h <;> cases h
        all_goals cases h
        all_goals simp
      · cases r <;> simp only [decodeRead] at h <;> cases h <;> simp

theorem accepts_iff (s : State) (T : Txn) : s.accepts T = true ↔ s.phase = .idle ∨ isRdStatus T = true := by
  simp [State.accepts, busy_false_iff]

/-- Everything an accepted transaction can do (R232): answer and change nothing; raise a fault of decode in IDLE; or
have one of the effects of Accepted. -/
theorem hostAccept_cases {T : Txn} {s t : State} (ha : s.accepts T = true) (h : hostAccept T s = .next t) :
    (∃ r, t = s.respond r) ∨
    (s.phase = .idle ∧ ∃ c info, decode T = .fault c info ∧ c ≠ .none ∧ t = s.raiseFault c info) ∨
    (s.phase = .idle ∧ s.fault = false ∧ ∃ i, decode T = .instr i ∧ Accepted s i t) := by
  unfold hostAccept at h
  cases hd : decode T with
  | fault c info =>
    simp only [hd, Host.Outcome.next.injEq] at h
    refine .inr (.inl ⟨?_, c, info, rfl, (decode_fault_cause hd).1, h.symm⟩)
    rcases (accepts_iff s T).1 ha with hi | hr
    · exact hi
    · rw [decode_of_isRdStatus hr] at hd; cases hd
  | instr i =>
    simp only [hd] at h
    rcases exec_cases h with ⟨hb, hi, rfl⟩ | ⟨r, hr⟩ | ⟨hp, hf, hacc⟩
    · rcases (accepts_iff t T).1 ha with hid | hr
      · rw [(busy_false_iff t).2 hid] at hb; cases hb
      · rw [decode_of_isRdStatus hr] at hd; cases hd; exact absurd rfl hi
    · exact .inl ⟨r, hr⟩
    · exact .inr (.inr ⟨hp, hf, i, rfl, hacc⟩)

theorem issueNext_pending_of_pending {s : State} {T : Txn} (h : s.pending = some T) :
    s.issueNext.pending = some T := by
  rw [issueNext_of_pending h, h]

/-- Taking a turn does not change what the host offers. -/
@[simp] theorem takeTurn_issueNext_pending (s : State) : s.takeTurn.2.issueNext.pending = s.issueNext.pending := by
  simp only [State.issueNext, takeTurn_pending, takeTurn_responses, takeTurn_program]
  cases h : s.pending <;> simp [h]

/-- s' is s but for the host's side of it: the schedule, the program, the port and the free values. On its port is
what was there, or what the host then offers. -/
def Prepared (s s' : State) : Prop :=
  SameEngine s s' ∧ s'.responses = s.responses ∧ s'.booted = s.booted ∧
  (s'.pending = s.pending ∨ s'.pending = s.issueNext.pending)

theorem Prepared.offered {s s' : State} (h : Prepared s s') {T : Txn} (hT : s'.pending = some T) :
    s.issueNext.pending = some T := by
  rcases h.2.2.2 with e | e
  · exact issueNext_pending_of_pending (e ▸ hT)
  · exact e ▸ hT

theorem Prepared.keeps {s s' : State} (h : Prepared s s') {T : Txn} (hT : s.pending = some T) :
    s'.pending = some T := by
  rcases h.2.2.2 with e | e
  · exact e.trans hT
  · exact e.trans (issueNext_pending_of_pending hT)

theorem prepared_takeTurn (s : State) : Prepared s s.takeTurn.2 := by
  simp [Prepared, SameEngine]

theorem prepared_issueNext (s : State) : Prepared s s.takeTurn.2.issueNext := by
  simp [Prepared, SameEngine]

/-- What the host's turn does: the transaction on the port is accepted, or the engine moves (in IDLE: nothing does). -/
theorem hostTurn_cases (s : State) :
    (∃ T, s.issueNext.pending = some T ∧ s.issueNext.accepts T = true ∧ hostTurn s = hostAccept T s.issueNext) ∨
    hostTurn s = .next s.issueNext.engineStep := by
  unfold hostTurn
  split
  · rename_i T hT
    split
    · rename_i ha
      exact .inl ⟨T, hT, ha, by simp [hostStep, ha]⟩
    · exact .inr rfl
  · exact .inr rfl

/-- A step whose turn is the host's. -/
theorem step_host {s : State} {rest : List Turn} (hs : s.sched = .host :: rest) (hb : s.booted = true) :
    step s = hostTurn { s with sched := rest } := by
  have e : s.takeTurn = (.host, { s with sched := rest }) := by simp [State.takeTurn, hs]
  rw [step, e, runTurn, if_pos hb]

/-- A step whose turn is the engine's, while a block is in progress. -/
theorem step_engine {s : State} {rest : List Turn} (hs : s.sched = .engine :: rest) (hb : s.booted = true)
    (hz : s.busy = true) : step s = .next (State.engineStep { s with sched := rest }) := by
  have e : s.takeTurn = (.engine, { s with sched := rest }) := by simp [State.takeTurn, hs]
  rw [step, e, runTurn, if_pos hb, engineTurn]
  exact if_pos hz

/-- A step whose turn is reset's. -/
theorem step_reset {s : State} {rest : List Turn} (hs : s.sched = .reset :: rest) :
    step s = .next (State.resetEvent { s with sched := rest }) := by
  have e : s.takeTurn = (.reset, { s with sched := rest }) := by simp [State.takeTurn, hs]
  rw [step, e, runTurn]

/-- A step with the schedule used up, in IDLE: the host's. -/
theorem step_idle {s : State} (hs : s.sched = []) (hb : s.booted = true) (hi : s.phase = .idle) :
    step s = hostTurn s := by
  have e : s.takeTurn = (.host, s) := by simp [State.takeTurn, hs, (busy_false_iff s).2 hi]
  rw [step, e, runTurn, if_pos hb]

@[simp] theorem hostLead_of_lead {s : State} {n : Nat} (h : s.lead = some n) : s.hostLead = n := by
  simp [State.hostLead, h]

/-- A step with the schedule and the host's turns used up, while a block is in progress: the engine's (R341). -/
theorem step_lead_zero {s : State} (hs : s.sched = []) (hb : s.booted = true) (hz : s.busy = true)
    (hl : s.hostLead = 0) : step s = .next (State.engineStep { s with lead := none, free := s.free + 1 }) := by
  have e : s.takeTurn = (.engine, { s with lead := none, free := s.free + 1 }) := by
    simp [State.takeTurn, hs, hz, hl]
  rw [step, e, runTurn, if_pos hb, engineTurn]
  exact if_pos hz

/-- A step with the schedule used up and n + 1 turns left to the host, while a block is in progress: the host's, and n
are left. -/
theorem step_lead_succ {s : State} {n : Nat} (hs : s.sched = []) (hb : s.booted = true) (hz : s.busy = true)
    (hl : s.hostLead = n + 1) : step s = hostTurn { s with lead := some n, free := s.free + 1 } := by
  have e : s.takeTurn = (.host, { s with lead := some n, free := s.free + 1 }) := by
    simp [State.takeTurn, hs, hz, hl]
  rw [step, e, runTurn, if_pos hb]

/-- The host's turn with an acceptable transaction on the port. -/
theorem hostTurn_accepts {s : State} {T : Txn} (hp : s.pending = some T) (ha : s.accepts T = true) :
    hostTurn s = hostAccept T s := by
  unfold hostTurn
  rw [issueNext_of_pending hp]
  simp [hp, ha, hostStep]

/-- The host's turn with a transaction on the port that is held: the engine moves. -/
theorem hostTurn_holds {s : State} {T : Txn} (hp : s.pending = some T) (ha : s.accepts T = false) :
    hostTurn s = .next s.engineStep := by
  unfold hostTurn
  rw [issueNext_of_pending hp]
  simp [hp, ha]

theorem runSteps_zero (s : State) : runSteps 0 s = .next s := rfl

theorem runSteps_next {n : Nat} {s t : State} (h : step s = .next t) : runSteps (n + 1) s = runSteps n t := by
  rw [runSteps, h]

/-- Everything a step that answers a next state can do (R233): reset; the host issues; the engine moves (in IDLE:
nothing does); or the transaction on the port is accepted. s' is the state with the turn used up and, for the host, the
next transaction issued. -/
theorem step_cases {s t : State} (h : step s = .next t) :
    (∃ rest, s.sched = .reset :: rest ∧ t = State.resetEvent { s with sched := rest }) ∨
    (s.booted = true ∧ ∃ s', Prepared s s' ∧ s.sched.head? ≠ some .reset ∧
      (t = s' ∨ t = s'.engineStep ∨
        ∃ T, s'.pending = some T ∧ s'.accepts T = true ∧ hostAccept T s' = .next t)) := by
  have hb' : s.takeTurn.2.booted = s.booted := takeTurn_booted s
  have hnr : s.takeTurn.1 ≠ .reset → s.sched.head? ≠ some .reset := by
    unfold State.takeTurn
    split
    · rename_i t rest e; simp [e]
    · rename_i e; simp [e]
  have before : ∀ u : State, beforeReset u ≠ .next t := by
    intro u hu
    unfold beforeReset at hu
    split at hu <;> cases hu
  have viaHost : s.booted = true → s.takeTurn.1 ≠ .reset → hostTurn s.takeTurn.2 = .next t →
      s.booted = true ∧ ∃ s', Prepared s s' ∧ s.sched.head? ≠ some .reset ∧
      (t = s' ∨ t = s'.engineStep ∨
        ∃ T, s'.pending = some T ∧ s'.accepts T = true ∧ hostAccept T s' = .next t) := by
    intro hb hn hh
    refine ⟨hb, _, prepared_issueNext s, hnr hn, ?_⟩
    rcases hostTurn_cases s.takeTurn.2 with ⟨T, hT, ha, e⟩ | e
    · exact .inr (.inr ⟨T, hT, ha, e ▸ hh⟩)
    · rw [e] at hh; cases hh; exact .inr (.inl rfl)
  unfold step at h
  cases hT : s.takeTurn.1 with
  | reset =>
    left
    simp only [hT, runTurn, Host.Outcome.next.injEq] at h
    unfold State.takeTurn at hT h
    split at hT
    · rename_i t' rest e
      simp only [e] at h
      simp only at hT
      subst hT
      exact ⟨rest, e, h.symm⟩
    · split at hT
      · simp only at hT; split at hT <;> cases hT
      · cases hT
  | host =>
    right
    simp only [hT, runTurn, hb'] at h
    split at h
    · rename_i hb; exact viaHost hb (by simp [hT]) h
    · exact absurd h (before _)
  | engine =>
    right
    simp only [hT, runTurn, hb'] at h
    split at h
    · rename_i hb
      unfold engineTurn at h
      split at h
      · cases h
        exact ⟨hb, _, prepared_takeTurn s, hnr (by simp [hT]), .inr (.inl rfl)⟩
      · exact viaHost hb (by simp [hT]) h
    · exact absurd h (before _)
  | issue =>
    right
    simp only [hT, runTurn, hb'] at h
    split at h
    · rename_i hb
      unfold issueTurn at h
      split at h
      · cases h
        exact ⟨hb, _, prepared_issueNext s, hnr (by simp [hT]), .inl rfl⟩
      · exact viaHost hb (by simp [hT]) h
    · exact absurd h (before _)

end Sys2Proof.Machine
end

