-- ==== Sys2Proof/Tests/Slice0.lean ====
section
/-! SUPPORT. The model's own tests, and a witness for the hypotheses of every statement that has some. The expected
results are those of spec/95_test_vectors.md, at the section each test names; the rest are worked out from the rule
named. -/

namespace Sys2Proof.Tests

open Sys2Proof Sys2Proof.Machine

/- Well-formedness: one ill-formed term for each check -/

theorem test_wf_txn_too_wide : txnFits (2 ^ 41) = false ∧ txnFits (2 ^ 41 - 1) = true := by decide
theorem test_wf_table_word_too_wide :
    decodeTableWord 42 (2 ^ 41) = none ∧ decodeTableWord 41 (2 ^ 41) = decodeTableWord 41 0 := by decide
theorem test_wf_wmsg_index : (AsmLine.wmsg 16 0).wf = false ∧ (AsmLine.wmsg 15 0).wf = true := by decide
theorem test_wf_wmsg_word :
    (AsmLine.wmsg 0 0x100000000).wf = false ∧ (AsmLine.wmsg 0 0xFFFFFFFF).wf = true := by decide
theorem test_wf_rdh_index : (AsmLine.rdh 8).wf = false ∧ (AsmLine.rdh 7).wf = true := by decide
theorem test_wf_wr_offset : (AsmLine.wr 256 0).wf = false ∧ (AsmLine.wr 255 0).wf = true := by decide
theorem test_wf_wr_word : (AsmLine.wr 0 0x100000000).wf = false ∧ (AsmLine.wr 0 0xFFFFFFFF).wf = true := by decide
theorem test_wf_rd_offset : (AsmLine.rd 256).wf = false ∧ (AsmLine.rd 255).wf = true := by decide
theorem test_wf_ldblk_length :
    (AsmLine.ldblk (List.replicate 63 0)).wf = false ∧ (AsmLine.ldblk (List.replicate 64 0)).wf = true := by decide
theorem test_ill_formed_line_refused : assembleLine (.rdh 8) = none ∧ assemble [.nop, .rd 256] = none := by decide

/- Decoding and encoding, each word written out from R115's pattern: WE, ADDR, DATA -/

/-- WE, ADDR and DATA side by side (R110). -/
def word (we : BitVec 1) (addr : BitVec 8) (data : BitVec 32) : Txn := we ++ addr ++ data

theorem test_decode_nop :
    decode (word 0b1 0b00000000 0b00000000000000000000000000000000) = .instr .nop := by decide
theorem test_decode_init :
    decode (word 0b1 0b00000000 0b00000000000000000000000000000001) = .instr .init := by decide
theorem test_decode_compress :
    decode (word 0b1 0b00000000 0b00000000000000000000000000000010) = .instr .compress := by decide
theorem test_decode_wmsg :
    decode (word 0b1 0b01111100 0b00000000000000000000000111000000) = .instr (.wmsg 15 0x1C0) ∧
    decode (word 0b1 0b01000100 0b01100001011000100110001110000000) = .instr (.wmsg 1 0x61626380) := by decide
theorem test_decode_rdstatus :
    decode (word 0b0 0b00000100 0b11011110101011011011111011101111) = .instr .rdstatus := by decide
theorem test_decode_rdblklo :
    decode (word 0b0 0b00001000 0b00000000000000000000000000000000) = .instr .rdblklo := by decide
theorem test_decode_rdblkhi :
    decode (word 0b0 0b00001100 0b00000000000000000000000000000000) = .instr .rdblkhi := by decide
theorem test_decode_rdfinfo :
    decode (word 0b0 0b00010000 0b00000000000000000000000000000000) = .instr .rdfinfo := by decide
theorem test_decode_rdh :
    decode (word 0b0 0b00111100 0b11111111111111111111111111111111) = .instr (.rdh 7) ∧
    decode (word 0b0 0b00101000 0b00000000000000000000000000000000) = .instr (.rdh 2) := by decide

/-- 95_test_vectors.md 6.2: the T of each native line. -/
theorem test_encode_words :
    encode .nop = 0x10000000000 ∧ encode .init = 0x10000000001 ∧ encode .compress = 0x10000000002 ∧
    encode (.wmsg 0 0x61626380) = 0x14061626380 ∧ encode (.wmsg 15 0x1C0) = 0x17c000001c0 ∧
    encode .rdstatus = 0x00400000000 ∧ encode .rdblklo = 0x00800000000 ∧ encode .rdblkhi = 0x00c00000000 ∧
    encode .rdfinfo = 0x01000000000 ∧ encode (.rdh 0) = 0x02000000000 ∧ encode (.rdh 7) = 0x03c00000000 := by decide

/-- 95_test_vectors.md 6.2: the order of R114's checks. -/
theorem test_decode_fault_order :
    decode 0x1ffffffffff = .fault .misaligned 0x1ff ∧ decode 0x17fffffffff = .fault .misaligned 0x17f ∧
    decode 0x11500000000 = .fault .misaligned 0x115 ∧ decode 0x11c00000000 = .fault .unmapped 0x11c ∧
    decode 0x08000000000 = .fault .unmapped 0x80 ∧ decode 0x13c00000000 = .fault .accessDirection 0x13c ∧
    decode 0x00000000000 = .fault .accessDirection 0 ∧ decode 0x10000000010 = .fault .illegalCommand 0x10 ∧
    decode 0x10080000002 = .fault .illegalCommand 0x80000002 := by decide

/-- The host's numbering (log 17): the opcode table's own words. -/
theorem test_table_words :
    decodeTableWord 48 0x10000000002 = some .compress ∧ decodeTableWord 48 0x14000000000 = some (.wmsg 0 0) ∧
    decodeTableWord 48 0x02000000000 = some (.rdh 0) ∧ decodeTableWord 48 0x10000000003 = none := by decide

/-- R119: lines of text, in the syntax of 95_test_vectors.md 7. -/
theorem test_parse_lines :
    parseLine "WMSG 15, 0x00000018  ; => OK".toList = .line (.wmsg 15 0x18) ∧
    parseLine "  RDH 7 => OK(0x5be0cd19)".toList = .line (.rdh 7) ∧
    parseLine "WR 0x41, 0x7".toList = .line (.wr 0x41 7) ∧ parseLine "; nothing".toList = .blank ∧
    parseLine "RDH 0x1".toList = .malformed := by decide

/- One step of each instruction -/

/-- The next state of an outcome. -/
def nextOf : Host.Outcome State Machine.Fault Machine.Refusal → Option State
  | .next s => some s
  | .fault _ | .refused _ => none

/-- The last answer and STATUS after one step that offers T. -/
def answerAndStatus (t : Txn) (s : State) : Option (Option Resp × Word) :=
  (nextOf (step (s.offer t))).map fun u => (u.responses.getLast?, u.status)

/-- A state right after reset with the sixteen words of the "abc" block written (95_test_vectors.md 6.4). -/
def abcLoaded : State :=
  { State.reset with
    msg := (Vector.replicate 16 0).set 0 0x61626380 |>.set 15 0x00000018
    msgValid := 0xFFFF }

/-- RUN at round r, as nothing else of the state matters to the test. -/
def running (r : BitVec 6) : State := { State.reset with phase := .run, rnd := r }

/-- FOLD, with BLKCNT at its top. -/
def folding : State := { State.reset with phase := .fold, blkcnt := 0xFFFFFFFFFFFFFFFF }

/-- After `WR 0x00, 0x3 => ERR` from reset (95_test_vectors.md 6.6). -/
def faulted : State := { State.reset with fault := true, cause := .illegalCommand, faultInfo := 3 }

/-- 6.1 row 1 and 6.6. -/
theorem test_nop :
    answerAndStatus 0x10000000000 State.reset = some (some .ok, 0) ∧
    answerAndStatus 0x10000000000 faulted = some (some .err, 0x12) := by decide
/-- 6.1 rows 12 and 13. -/
theorem test_init :
    answerAndStatus 0x10000000001 { State.reset with msgValid := 0x8001, h := Vector.replicate 8 1 } =
      some (some .ok, 0) ∧
    (nextOf (step (State.offer 0x10000000001 { State.reset with h := Vector.replicate 8 1, blkcnt := 9 }))).map
      (fun s => (s.h[7], s.blkcnt)) = some (0x5be0cd19, 0) := by decide
/-- 6.4 and 6.3's row COMPRESS. -/
theorem test_compress :
    answerAndStatus 0x10000000002 abcLoaded = some (some .ok, 0x00004001) ∧
    answerAndStatus 0x10000000002 State.reset = some (some .err, 0x00000022) := by decide
/-- R284: FAULTINFO of INCOMPLETE_BLOCK is zext_32(MSGVALID). -/
theorem test_compress_incomplete_info :
    (nextOf (step (State.offer 0x10000000002 { State.reset with msgValid := 0x7FFF }))).map
      (fun s => (s.cause, s.faultInfo, s.phase)) = some (.incompleteBlock, 0x7FFF, .idle) := by decide
/-- 6.1 rows 8, 10 and 11. -/
theorem test_wmsg :
    answerAndStatus 0x14061626380 State.reset = some (some .ok, 0x00010000) ∧
    (nextOf (step (State.offer 0x17c00000018 { State.reset with msgValid := 1 }))).map
      (fun s => (s.msg[15], s.msg[14], s.msgValid)) = some (0x18, 0, 0x8001) := by decide
/-- 6.1 row 9 and 6.4 at k = 17 and k = 64. -/
theorem test_rdstatus :
    answerAndStatus 0x00400000000 { State.reset with msgValid := 1 } =
      some (some (.okData 0x00010000), 0x00010000) ∧
    answerAndStatus 0x004deadbeef (running 17) = some (some (.okData 0x00005101), 0x00005101) ∧
    answerAndStatus 0x00400000000 folding = some (some (.okData 0x00008001), 0x00008001) := by decide
/-- R239, R41. -/
theorem test_rdblklo :
    answerAndStatus 0x00800000000 { State.reset with blkcnt := 0x123456789ABCDEF0 } =
      some (some (.okData 0x9ABCDEF0), 0) := by decide
/-- R240, R41. -/
theorem test_rdblkhi :
    answerAndStatus 0x00c00000000 { State.reset with blkcnt := 0x123456789ABCDEF0 } =
      some (some (.okData 0x12345678), 0) := by decide
/-- 6.6. -/
theorem test_rdfinfo : answerAndStatus 0x01000000000 faulted = some (some (.okData 3), 0x12) := by decide
/-- 6.1 rows 3 and 4, and 6.6. -/
theorem test_rdh :
    answerAndStatus 0x02000000000 faulted = some (some (.okData 0x6a09e667), 0x12) ∧
    answerAndStatus 0x03c00000000 State.reset = some (some (.okData 0x5be0cd19), 0) := by decide

/-- 6.3: one word of each fault class, and the STATUS after it. -/
theorem test_faults_from_reset :
    answerAndStatus 0x1000000000f State.reset = some (some .err, 0x12) ∧
    answerAndStatus 0x01400000000 State.reset = some (some .err, 0x32) ∧
    answerAndStatus 0x14100000007 State.reset = some (some .err, 0x42) ∧
    answerAndStatus 0x04000000000 State.reset = some (some .err, 0x52) := by decide
/-- 6.6: the first fault's record stays. -/
theorem test_second_fault_not_recorded :
    (nextOf (step (faulted.offer 0x04000000000))).map (fun s => (s.cause, s.faultInfo)) =
      some (.illegalCommand, 3) := by decide
/-- 6.5: a word that would fault is held while busy, and the engine moves. -/
theorem test_hold :
    (nextOf (step ((running 3).offer 0x14100000000))).map (fun s => (s.pending, s.responses, s.rnd)) =
      some (some 0x14100000000, [], 4) := by decide
/-- 6.7: reset with a transaction on the port. -/
theorem test_reset_answers_held :
    (nextOf (step { running 10 with pending := some 0x02000000000, sched := [.reset] })).map
      (fun s => (s.responses, s.status, s.pending)) = some ([.err], 0, none) := by decide

/-- R341: with the schedule used up and the host's turns used up too, the turn is the engine's. -/
theorem test_engine_turn_comes :
    (State.takeTurn { running 3 with lead := some 1 }).1 = .host ∧
    (State.takeTurn { running 3 with lead := some 1 }).2.takeTurn.1 = .engine := by decide

/- The engine -/

/-- 5.1, round 0 of "abc". -/
theorem test_round_zero :
    applyRound 0 (WorkRegs.ofDigest iv) 0x61626380 =
      ⟨0x5d6aebcd, 0x6a09e667, 0xbb67ae85, 0x3c6ef372, 0xfa2a4622, 0x510e527f, 0x9b05688c, 0x1f83d9ab⟩ := by decide
/-- R250 at round 63, R251's BLKCNT modulo 2^64. -/
theorem test_last_round_and_fold :
    (running 63).engineStep.phase = .fold ∧ (running 63).engineStep.rnd = 0 ∧
    folding.engineStep.blkcnt = 0 ∧ folding.engineStep.phase = .idle := by decide
/-- 3.3 and 3.4. -/
theorem test_mixing :
    bsig0 0x12345678 = 0x66146474 ∧ bsig1 0x12345678 = 0x3561abda ∧ ssig0 0x12345678 = 0xe7fce6ee ∧
    ssig1 0x12345678 = 0xa1f78649 ∧ ch 0 0x12345678 0x9abcdef0 = 0x9abcdef0 ∧
    maj 0xffffffff 0x12345678 0x9abcdef0 = 0x9abcdef8 := by decide
/-- 5.1: W[63] of "abc", and K[63]. -/
theorem test_schedule_end :
    wAt (sched abcLoaded.msg) 63 = 0x12b1edeb ∧ kAt 63 = 0xc67178f2 := by decide +kernel
/-- 1.1 KAT1: SHA-256 of "abc". -/
theorem test_kat_abc :
    sha256 [0x61, 0x62, 0x63] =
      #v[0xba7816bf, 0x8f01cfea, 0x414140de, 0x5dae2223, 0xb00361a3, 0x96177a9c, 0xb410ff61, 0xf20015ad] := by
  decide +kernel
/-- R153, R155: the corners of the padding by length. -/
theorem test_padding_corners :
    [0, 55, 56, 63, 64].map zeroFill = [55, 0, 63, 56, 55] ∧ [0, 55, 56, 63, 64].map blockCount = [1, 1, 2, 2, 2] := by
  decide
/-- R87, 1.2. -/
theorem test_digest_bytes :
    (digestBytes #v[0xba7816bf, 0x8f01cfea, 0, 0, 0, 0, 0, 0]).take 5 = [0xba, 0x78, 0x16, 0xbf, 0x8f] := by decide
/-- 6.8. -/
theorem test_pack :
    (Snap.roundSnap 0 0 ⟨0x5d6aebcd, 0x6a09e667, 0xbb67ae85, 0x3c6ef372, 0xfa2a4622, 0x510e527f, 0x9b05688c,
      0x1f83d9ab⟩).pack.extractLsb' 0 256 = 0x5d6aebcd6a09e667bb67ae853c6ef372fa2a4622510e527f9b05688c1f83d9ab := by
  decide
/-- R82: a byte access is refused. -/
theorem test_adapter_width : adaptAccess 0x1000 ⟨true, 0x1040, 8, 5⟩ = .refusedWidth := by decide

/- Witnesses: for each statement with hypotheses, a state and operands that meet all of them -/

/-- O2: a word of each form with operands. -/
theorem witness_NamedExactlyWhenRowMatches :
    decode 0x17c000001c0 = .instr (.wmsg 15 0x1C0) ∧ decode 0x03c00000000 = .instr (.rdh 7) := by decide

theorem witness_ReadDataIgnored : Instr.isWrite (.rdh 7) = false := by decide

/-- The ends of each range of offsets, aligned and not, on both sides. -/
theorem witness_FaultClassesOfDecode :
    decode 0x11400000000 = .fault .unmapped 0x114 ∧ decode 0x01c00000000 = .fault .unmapped 0x1c ∧
    decode 0x12000000000 = .fault .accessDirection 0x120 ∧ decode 0x13c00000000 = .fault .accessDirection 0x13c ∧
    decode 0x04000000000 = .fault .accessDirection 0x40 ∧ decode 0x07c00000000 = .fault .accessDirection 0x7c ∧
    decode 0x08000000000 = .fault .unmapped 0x80 ∧ decode 0x0fc00000000 = .fault .unmapped 0xfc ∧
    decode 0x0ff00000000 = .fault .misaligned 0xff ∧ decode 0x10000000003 = .fault .illegalCommand 3 := by decide

/-- The turn is the host's, with NOP on the port in IDLE; with RDSTATUS on the port in RUN; NOP in the program; and
NOP placed by withFetchWord. -/
theorem witness_StepRunsDecodedInstruction :
    (∃ s : State, s.booted = true ∧ s.sched = [.host] ∧ s.pending = some 0x10000000000 ∧
      decode 0x10000000000 = .instr .nop ∧ s.phase = .idle) ∧
    (∃ s : State, s.booted = true ∧ s.sched = [.host] ∧ s.pending = some 0x00400000000 ∧
      decode 0x00400000000 = .instr .rdstatus ∧ s.phase = .run) ∧
    (∃ s : State, s.booted = true ∧ s.sched = [] ∧ s.phase = .idle ∧ s.pending = none ∧
      s.program = .txn 0x10000000000 :: [] ∧ decode 0x10000000000 = .instr .nop) ∧
    (State.reset.booted = true ∧ decodeTableWord 48 0x10000000000 = some .nop ∧ State.reset.phase = .idle) :=
  ⟨⟨{ State.reset with sched := [.host], pending := some 0x10000000000 }, by decide⟩,
   ⟨{ running 63 with sched := [.host], pending := some 0x00400000000 }, by decide⟩,
   ⟨{ State.reset with program := [.txn 0x10000000000] }, by decide⟩, by decide⟩

/-- Not yet faulted, and faulted. -/
theorem witness_StepRaisesDecodeFault :
    (∃ s : State, s.booted = true ∧ s.sched = .host :: [] ∧ s.pending = some 0x01400000000 ∧ s.phase = .idle ∧
      decode 0x01400000000 = .fault .unmapped 0x14 ∧ s.fault = false) ∧
    (∃ s : State, s.booted = true ∧ s.sched = .host :: [] ∧ s.pending = some 0x01400000000 ∧ s.phase = .idle ∧
      decode 0x01400000000 = .fault .unmapped 0x14 ∧ s.fault = true) :=
  ⟨⟨{ State.reset with sched := [.host], pending := some 0x01400000000 }, by decide⟩,
   ⟨{ faulted with sched := [.host], pending := some 0x01400000000 }, by decide⟩⟩

theorem witness_MisalignedAccessFaults :
    State.reset.phase = .idle ∧ (Txn.addr 0x17f00000000).extractLsb' 0 2 ≠ 0 ∧ (Txn.addr 0x00100000000).extractLsb' 0 2 ≠ 0 ∧
    State.reset.fault = false ∧ faulted.phase = .idle ∧ faulted.fault = true := by decide

/-- A step that records a fault: from reset, with an unmapped read on the port. -/
theorem witness_FirstFaultIsRecorded :
    State.reset.fault = false ∧ faulted.fault = true ∧
    ∃ s t : State, step s = .next t ∧ s.fault = false ∧ t.fault = true :=
  ⟨rfl, rfl, State.reset.offer 0x01400000000, _, rfl, rfl, rfl⟩

/-- The three cases of a command in IDLE: not faulted, faulted, and (for COMPRESS) complete and incomplete. It serves
NopOnlyAnswers, InitLoadsInitialDigest, CompressStartsOrFaults, WmsgWritesOneWord, ReadsAnswerTheirRegister,
EngineComputesCompression and StatusDuringCompression. -/
theorem witness_commands :
    (State.reset.phase = .idle ∧ State.reset.fault = false ∧ State.reset.msgValid ≠ 0xFFFF) ∧
    (faulted.phase = .idle ∧ faulted.fault = true) ∧
    (abcLoaded.phase = .idle ∧ abcLoaded.fault = false ∧ abcLoaded.msgValid = 0xFFFF ∧ StateInv abcLoaded) ∧
    ((running 0).phase ≠ .idle ∧ folding.phase ≠ .idle) := by decide

theorem witness_FaultedStateAnswersReadsOnly :
    (faulted.phase = .idle ∧ faulted.fault = true ∧ Txn.we 0x17fffffffff = true ∧
      Txn.we 0x03c00000000 = false ∧ decode 0x03c00000000 = .instr (.rdh 7) ∧
      Txn.we 0x04000000000 = false ∧ decode 0x04000000000 = .fault .accessDirection 0x40) ∧
    ∃ s t : State, step s = .next t ∧ s.fault = true :=
  ⟨by decide, faulted.offer 0x04000000000, _, rfl, rfl⟩

theorem witness_BusyEngineHoldsTransactions :
    ((running 63).phase = .run ∧ (running 0).phase = .run ∧ folding.phase = .fold ∧
      (0x14100000000 : Txn) &&& 0x1ff00000000 ≠ 0x00400000000 ∧ Instr.compress ≠ .rdstatus) ∧
    ∃ s : State, s.booted = true ∧ s.sched = .issue :: [] ∧ Turn.issue ≠ .reset ∧ s.phase ≠ .idle ∧
      s.pending = some 0x14100000000 :=
  ⟨by decide, { running 63 with sched := [.issue], pending := some 0x14100000000 }, by decide⟩

/-- At round 0 and at round 63, with RDH 0 on the port. -/
theorem witness_HeldTransactionWaitsOutTheBlock :
    ∀ r : BitVec 6, r = 0 ∨ r = 63 → ∃ s : State, s.booted = true ∧ s.noReset ∧ s.phase = .run ∧ s.rnd = r ∧
      s.pending = some 0x02000000000 ∧ isRdStatus 0x02000000000 = false := by
  intro r _
  refine ⟨{ running r with sched := [.engine, .host], pending := some 0x02000000000 }, rfl, ?_, rfl, rfl, rfl, by decide⟩
  intro t ht
  simp at ht
  rcases ht with rfl | rfl <;> decide

/-- The rounds at the boundaries of the schedule's rule, and the fold. -/
theorem witness_RoundStepEffect :
    (running 0).phase = .run ∧ (running 15).phase = .run ∧ (running 16).phase = .run ∧ (running 63).phase = .run := by
  decide

theorem witness_FoldStepEffect : folding.phase = .fold := by decide

theorem witness_RdstatusOrderChangesOnlyAnswer :
    ∃ s : State, s.booted = true ∧ s.phase ≠ .idle ∧ s.pending = some 0x00400000000 ∧
      isRdStatus 0x00400000000 = true :=
  ⟨{ running 63 with pending := some 0x00400000000 }, by decide⟩

/-- With a transaction on the port, with none, and before the first reset. -/
theorem witness_ResetEffect :
    (∃ s : State, s.sched = .reset :: [] ∧ s.pending = some 0x02000000000) ∧
    (∃ s : State, s.sched = .reset :: [] ∧ s.pending = none ∧ s.booted = false) :=
  ⟨⟨{ running 10 with sched := [.reset], pending := some 0x02000000000 }, by decide⟩,
   ⟨{ State.reset with sched := [.reset], booted := false }, by decide⟩⟩

/-- With a transaction on the port, with one in the host's program, and with none. -/
theorem witness_OnlyResetBeforeFirstReset :
    (∃ s : State, s.booted = false ∧ s.sched.head? ≠ some .reset ∧ s.issueNext.pending ≠ none ∧
      s.pending = some 0x10000000000) ∧
    (∃ s : State, s.booted = false ∧ s.sched.head? ≠ some .reset ∧ s.issueNext.pending ≠ none ∧ s.pending = none) ∧
    (∃ s : State, s.booted = false ∧ s.sched.head? ≠ some .reset ∧ s.issueNext.pending = none) :=
  ⟨⟨{ State.reset with booted := false, pending := some 0x10000000000 }, by decide⟩,
   ⟨{ State.reset with booted := false, program := [.txn 0x10000000000] }, by decide⟩,
   ⟨{ State.reset with booted := false, sched := [.engine] }, by decide⟩⟩

/-- A step from reset, which meets the invariants. -/
theorem witness_StepKeepsInvariants : ∃ s t : State, StateInv s ∧ step s = .next t :=
  ⟨State.reset.offer 0x01400000000, _, by decide, rfl⟩

/-- The state after COMPRESS of "abc" has a block in progress and meets its invariant. -/
theorem witness_StepKeepsBlockInvariant : ∃ s t : State, s.busy = true ∧ BlockInv s ∧ step s = .next t := by
  refine ⟨{ abcLoaded.startBlock with sched := [.engine] }, _, rfl, ?_, rfl⟩
  intro _
  refine ⟨rfl, abcLoaded.msg, ?_, rfl⟩
  have h : ∀ k : Fin 64, k.val < 16 → (loadSchedule abcLoaded.msg abcLoaded.w)[k] = (sched abcLoaded.msg)[k] := by
    decide +kernel
  exact h

/-- A step that is not reset, from each kind of state the rules of the whole machine speak of. It serves
FaultRecordChangesOnce and the last two clauses of SequencerMoves. -/
theorem witness_steps_not_reset :
    (∃ s t : State, step s = .next t ∧ s.sched.head? ≠ some .reset ∧ s.fault = true) ∧
    (∃ s t : State, step s = .next t ∧ s.sched.head? ≠ some .reset ∧ s.fault = false ∧ t.fault = false) ∧
    (∃ s t : State, step s = .next t ∧ s.sched.head? ≠ some .reset ∧ s.phase = .run) ∧
    (∃ s t : State, step s = .next t ∧ s.sched.head? ≠ some .reset ∧ s.phase = .fold) :=
  ⟨⟨faulted.offer 0x04000000000, _, rfl, by decide, rfl⟩,
   ⟨State.reset.offer 0x10000000000, _, rfl, by decide, rfl, rfl⟩,
   ⟨{ running 63 with sched := [.engine] }, _, rfl, by decide, rfl⟩,
   ⟨{ folding with sched := [.engine] }, _, rfl, by decide, rfl⟩⟩

/-- H and BLKCNT change in a step by INIT, and by the fold. It serves BlockCountChangesOnly too. -/
theorem witness_DigestChangesOnly :
    (∃ s t : State, step s = .next t ∧ t.h ≠ s.h ∧ t.blkcnt ≠ s.blkcnt ∧ s.phase = .idle) ∧
    (∃ s t : State, step s = .next t ∧ t.blkcnt ≠ s.blkcnt ∧ s.phase = .fold) :=
  ⟨⟨State.offer 0x10000000001 { State.reset with h := Vector.replicate 8 1, blkcnt := 9 }, _, rfl, by decide,
     by decide, rfl⟩,
   ⟨{ folding with sched := [.engine] }, _, rfl, by decide, rfl⟩⟩

/-- Valid bit 15 rises by WMSG 15 and falls by INIT. -/
theorem witness_ValidBitsChangeOnly :
    (∃ s t : State, step s = .next t ∧ s.sched.head? ≠ some .reset ∧ s.msgValid.getLsbD 15 = false ∧
      t.msgValid.getLsbD 15 = true) ∧
    (∃ s t : State, step s = .next t ∧ s.sched.head? ≠ some .reset ∧ s.msgValid.getLsbD 15 = true ∧
      t.msgValid.getLsbD 15 = false) :=
  ⟨⟨State.reset.offer 0x17c00000018, _, rfl, by decide, rfl, rfl⟩,
   ⟨abcLoaded.offer 0x10000000001, _, rfl, by decide, rfl, rfl⟩⟩

/-- IDLE is left for RUN by COMPRESS. -/
theorem witness_SequencerMoves :
    ∃ s t : State, step s = .next t ∧ s.sched.head? ≠ some .reset ∧ s.phase = .idle ∧ t.phase = .run :=
  ⟨abcLoaded.offer 0x10000000002, _, rfl, by decide, rfl, rfl⟩

/-- Steps that emit, in RUN and in FOLD; and steps that do not: in IDLE, and a poll in RUN. -/
theorem witness_TraceGrowsByEngineStepsOnly :
    (∃ s t : State, step s = .next t ∧ t.trace.length = 1 ∧ s.phase = .run) ∧
    (∃ s t : State, step s = .next t ∧ t.trace.length = 1 ∧ s.phase = .fold) ∧
    (∃ s t : State, step s = .next t ∧ t.trace = [] ∧ s.phase = .idle) ∧
    (∃ s t : State, step s = .next t ∧ t.trace = [] ∧ t.responses.length = 1 ∧ s.phase = .run) :=
  ⟨⟨{ running 63 with sched := [.engine] }, _, rfl, rfl, rfl⟩, ⟨{ folding with sched := [.engine] }, _, rfl, rfl, rfl⟩,
   ⟨State.reset.offer 0x10000000000, _, rfl, rfl, rfl⟩, ⟨(running 5).offer 0x00400000000, _, rfl, rfl, rfl, rfl⟩⟩

theorem witness_OneAnswerPerTransaction :
    (∃ s t : State, step s = .next t ∧ t.responses = s.responses ∧ s.pending = some 0x02000000000) ∧
    (∃ s t : State, step s = .next t ∧ t.responses ≠ s.responses ∧ t.pending = none) :=
  ⟨⟨(running 5).offer 0x02000000000, _, rfl, rfl, rfl⟩, ⟨State.reset.offer 0x02000000000, _, rfl, by decide, rfl⟩⟩

/-- Two different states that agree on all that the rules have written. -/
theorem witness_UnwrittenStateIsNeverRead :
    ∃ s t : State, SameDefined s t ∧ s.msg ≠ t.msg ∧ s.w ≠ t.w ∧ s.wr ≠ t.wr := by
  refine ⟨State.reset, { State.reset with
    msg := Vector.replicate 16 1, w := Vector.replicate 64 1, wr := ⟨1, 1, 1, 1, 1, 1, 1, 1⟩ }, ?_, by decide, ?_,
    by decide⟩
  · refine ⟨rfl, rfl, rfl, rfl, rfl, rfl, rfl, rfl, rfl, rfl, rfl, rfl, rfl, rfl, rfl, rfl, ?_, ?_⟩
    · intro i h
      simp [State.reset] at h
    · intro h
      simp [State.busy, State.reset] at h
  · decide +kernel

/-- The boundary indices of the schedule's rule. -/
theorem witness_ScheduleFollowsRecurrence : 16 ≤ (16 : Fin 64).val ∧ 16 ≤ (63 : Fin 64).val := by decide

theorem witness_SigmasByBits : (0 : Nat) < 32 ∧ (31 : Nat) < 32 := by decide

theorem witness_ConstantsAreRootsOfPrimes : (311 : Nat) < 312 ∧ Nat.Prime 311 ∧ 2 ∈ firstPrimes :=
  ⟨by decide, by norm_num, by decide⟩

/-- It serves PaddingClosedForm too. The empty message, whose padded bytes have an end at either side of each clause. -/
theorem witness_PaddingLaws : ([] : List Byte).length < 2 ^ 61 ∧ 63 < 64 * blockCount ([] : List Byte).length := by
  decide

theorem witness_HashProgramAnswersDigest :
    ∃ s : State, s.booted = true ∧ s.noReset ∧ s.phase = .idle ∧ s.fault = false ∧ s.pending = none ∧
      s.program = hashOps [0x61, 0x62, 0x63] :=
  ⟨{ State.reset with program := hashOps [0x61, 0x62, 0x63] }, rfl, (by intro t ht; cases ht), rfl, rfl, rfl, rfl⟩

/-- At round 0 and at round 63. -/
theorem witness_WaitIdlePollsUntilIdle :
    ∀ r : BitVec 6, r = 0 ∨ r = 63 → ∃ s : State, s.booted = true ∧ s.phase = .run ∧ s.pending = none ∧ s.rnd = r ∧
      s.program = [.waitIdle] ∧
      s.sched = (List.replicate (65 - s.rnd.toNat) [Turn.host, Turn.engine]).flatten ++ [.host] :=
  fun r _ => ⟨{ running r with
    program := [.waitIdle]
    sched := (List.replicate (65 - r.toNat) [Turn.host, Turn.engine]).flatten ++ [.host] }, rfl, rfl, rfl, rfl, rfl, rfl⟩

/-- Two records that differ in their tag alone, and two that differ in one inner word alone. -/
theorem witness_TracePackingLosesNothing :
    Snap.roundSnap 0 0 (WorkRegs.ofDigest iv) ≠ Snap.blockSnap 0 iv ∧
    Snap.blockSnap 0 iv ≠ Snap.blockSnap 0 (iv.set 3 0) := by decide

/-- The clauses of the adapter at the window's ends. -/
theorem witness_AdapterReachesWindow :
    ((0x0FFF : Nat) < 0x1000 ∨ 0x1000 + 256 ≤ (0x0FFF : Nat)) ∧ ((0x1100 : Nat) < 0x1000 ∨ 0x1000 + 256 ≤ (0x1100 : Nat)) ∧
    (0x1000 ≤ (0x10FF : Nat) ∧ (0x10FF : Nat) < 0x1000 + 256) ∧
    adaptAccess 0x1000 ⟨false, 0x10FF, 32, 7⟩ = .txn 0x0ff00000000 ∧
    adaptAccess 0x1000 ⟨true, 0x1000, 32, 2⟩ = .txn 0x10000000002 ∧
    adaptAccess 0x1000 ⟨true, 0x1100, 32, 2⟩ = .notThisWindow := by decide

/-- A poll loop in RUN, with the schedule used up: the host and the engine both want to move, from here on. It serves
EveryHostProgramEnds too. -/
theorem witness_EnabledEngineStepIsTaken :
    ∃ s : State, s.booted = true ∧ s.noReset ∧ s.phase ≠ .idle ∧ s.sched = [] ∧ s.program = [.waitIdle] :=
  ⟨{ running 63 with program := [.waitIdle] }, rfl, (by intro t ht; cases ht), by decide, rfl, rfl⟩

end Sys2Proof.Tests
end

section
/-! PROOFS. The moves of one step, told over the state with the turn used up, and what each move does to
the fields the state's invariants speak of (10_state.md rules R31 to R42 and R51). -/

namespace Sys2Proof.Machine

/-- What a step that is not reset does to the state `s` with the turn used up, where `offered` is the transaction the
host offers in it: each constructor is one way the step can go (R232, R233). -/
inductive Move (offered : Option Txn) (s : State) : State → Prop where
  | stay : Move offered s s
  | round (hp : s.phase = .run) : Move offered s s.roundStep
  | fold (hp : s.phase = .fold) : Move offered s s.foldStep
  | answer (r : Resp) : Move offered s (s.respond r)
  | fault (hp : s.phase = .idle) (c : Cause) (hc : c ≠ .none) (info : Word) : Move offered s (s.raiseFault c info)
  | init (hp : s.phase = .idle) (hf : s.fault = false) (T : Txn) (hT : offered = some T)
      (hd : decode T = .instr .init) : Move offered s (s.initDigest.respond .ok)
  | compress (hp : s.phase = .idle) (hf : s.fault = false) (hv : s.msgValid = 0xFFFF) (T : Txn)
      (hT : offered = some T) (hd : decode T = .instr .compress) : Move offered s (s.startBlock.respond .ok)
  | wmsg (hp : s.phase = .idle) (hf : s.fault = false) (k : Fin 16) (d : Word) (T : Txn) (hT : offered = some T)
      (hd : decode T = .instr (.wmsg k d)) : Move offered s ((s.writeMsg k d).respond .ok)

/-- R252: an engine step is the round in RUN, the fold in FOLD, and nothing in IDLE. -/
theorem move_engineStep (offered : Option Txn) (s : State) : Move offered s s.engineStep := by
  cases hp : s.phase with
  | idle => rw [engineStep_idle hp]; exact .stay
  | run => rw [engineStep_run hp]; exact .round hp
  | fold => rw [engineStep_fold hp]; exact .fold hp

theorem move_of_accepted {s t : State} {T : Txn} {i : Instr} (hp : s.phase = .idle) (hf : s.fault = false)
    (hd : decode T = .instr i) (h : Accepted s i t) : Move (some T) s t := by
  cases h with
  | init => exact .init hp hf T rfl hd
  | compress hc => exact .compress hp hf (by simpa [State.blockComplete] using hc) T rfl hd
  | incomplete => exact .fault hp _ (by simp) _
  | wmsg k d => exact .wmsg hp hf k d T rfl hd

theorem move_of_hostAccept {s t : State} {T : Txn} (ha : s.accepts T = true) (h : hostAccept T s = .next t) :
    Move (some T) s t := by
  rcases hostAccept_cases ha h with ⟨r, rfl⟩ | ⟨hp, c, info, -, hc, rfl⟩ | ⟨hp, hf, i, hd, hacc⟩
  · exact .answer r
  · exact .fault hp c hc info
  · exact move_of_accepted hp hf hd hacc

/-- Every step is reset, or one of the moves of the state with the turn used up. -/
theorem step_moves {s t : State} (h : step s = .next t) :
    (∃ rest, s.sched = .reset :: rest ∧ t = State.resetEvent { s with sched := rest }) ∨
    (s.sched.head? ≠ some .reset ∧ ∃ s', SameEngine s s' ∧ Move s.issueNext.pending s' t) := by
  rcases step_cases h with hreset | ⟨-, s', hprep, hnr, rfl | rfl | ⟨T, hT, ha, hacc⟩⟩
  · exact .inl hreset
  · exact .inr ⟨hnr, _, hprep.1, .stay⟩
  · exact .inr ⟨hnr, s', hprep.1, move_engineStep _ s'⟩
  · exact .inr ⟨hnr, s', hprep.1, hprep.offered hT ▸ move_of_hostAccept ha hacc⟩

theorem step_moves_not_reset {s t : State} (h : step s = .next t) (hnr : s.sched.head? ≠ some .reset) :
    ∃ s', SameEngine s s' ∧ Move s.issueNext.pending s' t := by
  rcases step_moves h with ⟨rest, hs, -⟩ | ⟨-, hmove⟩
  · simp [hs] at hnr
  · exact hmove

/-! The round's moves of PHASE and RND -/

/-- R250: round 63 ends the rounds. -/
theorem roundStep_last {s : State} (hr : s.rnd = 63) : s.roundStep.phase = .fold ∧ s.roundStep.rnd = 0 :=
  ⟨if_pos hr, if_pos hr⟩

/-- R250: every other round is followed by the next. -/
theorem roundStep_next {s : State} (hr : s.rnd ≠ 63) : s.roundStep.phase = .run ∧ s.roundStep.rnd = s.rnd + 1 :=
  ⟨if_neg hr, if_neg hr⟩

/-- R37: a round step adds one to the rounds done, the last one too. -/
theorem roundsDone_roundStep (s : State) : roundsDone s.roundStep = s.rnd.toNat + 1 := by
  unfold roundsDone
  by_cases hr : s.rnd = 63
  · rw [(roundStep_last hr).1, hr]
    rfl
  · obtain ⟨hphase, hrnd⟩ := roundStep_next hr
    rw [hphase, hrnd]
    bv_omega

/-! The invariants of R51 -/

theorem stateInv_resetEvent (s : State) : StateInv s.resetEvent := by simp [StateInv]

/-- R51's invariants read the engine only. -/
theorem stateInv_congr {s s' : State} (h : SameEngine s s') (hi : StateInv s) : StateInv s' := by
  obtain ⟨-, -, -, -, -, hphase, hrnd, hfault, hcause, -, hinfo, -⟩ := h
  simpa only [StateInv, hphase, hrnd, hfault, hcause, hinfo] using hi

/-- R51: a busy engine is not faulted. -/
theorem StateInv.not_faulted {s : State} (hi : StateInv s) (hb : s.phase ≠ .idle) : s.fault = false := by
  obtain ⟨hidle, -⟩ := hi
  cases hf : s.fault
  · rfl
  · exact absurd (hidle hf) hb

theorem Move.keeps_stateInv {o : Option Txn} {s t : State} (h : Move o s t) (hi : StateInv s) : StateInv t := by
  cases h with
  | stay => exact hi
  | answer r => exact hi
  | round hp =>
    have hf := hi.not_faulted (by simp [hp])
    obtain ⟨-, -, hclear, -⟩ := hi
    refine ⟨by simp [hf], ?_, by simpa using hclear, by simp [hf]⟩
    by_cases hr : s.rnd = 63
    · exact fun _ => (roundStep_last hr).2
    · rw [(roundStep_next hr).1]
      simp
  | fold hp =>
    have hf := hi.not_faulted (by simp [hp])
    obtain ⟨-, hrnd, hclear, -⟩ := hi
    exact ⟨by simp, fun _ => hrnd (.inr hp), by simpa using hclear, by simp [hf]⟩
  | fault hp c hc info =>
    obtain ⟨-, hrnd, -, hcause⟩ := hi
    refine ⟨by simp [hp], by simpa using hrnd, by simp, fun _ => ?_⟩
    cases hf : s.fault
    · simpa [hf] using hc
    · simpa [hf] using hcause hf
  | init hp hf T hT hd => exact hi
  | compress hp hf hv T hT hd =>
    obtain ⟨-, -, hclear, -⟩ := hi
    exact ⟨by simp [hf], by simp, by simpa using hclear, by simp [hf]⟩
  | wmsg hp hf k d T hT hd => exact hi

/-- Settles O29: reset makes the invariants, and each move keeps them. -/
theorem stepKeepsInvariants : Obligations.StepKeepsInvariants := by
  intro s t hi h
  rcases step_moves h with ⟨rest, -, rfl⟩ | ⟨-, s', hsame, hmove⟩
  · exact stateInv_resetEvent _
  · exact hmove.keeps_stateInv (stateInv_congr hsame hi)

/-- Settles O28: no block is in progress at reset. -/
theorem invariantsHoldAtReset : Obligations.InvariantsHoldAtReset := by
  refine ⟨by decide, fun hbusy => ?_⟩
  exact absurd hbusy (by decide)

/-! The fault record, the digest, the block count, the valid bits and the sequencer, move by move -/

/-- R282: no move changes a fault record, and only a rise of FAULT makes one. -/
theorem Move.fault_record {o : Option Txn} {s t : State} (h : Move o s t) :
    (s.fault = true → t.fault = true ∧ t.cause = s.cause ∧ t.faultInfo = s.faultInfo) ∧
    (s.fault = false → t.fault = false → t.cause = s.cause ∧ t.faultInfo = s.faultInfo) := by
  cases h with
  | fault hp c hc info => simp +contextual
  | _ => simp

/-- Settles O31, from what each move does to the record. -/
theorem faultRecordChangesOnce : Obligations.FaultRecordChangesOnce := by
  intro s t h hnr
  obtain ⟨s', ⟨-, -, -, -, -, -, -, hfault, hcause, -, hinfo, -⟩, hmove⟩ := step_moves_not_reset h hnr
  rw [hfault, hcause, hinfo]
  exact hmove.fault_record

theorem Move.digest {o : Option Txn} {s t : State} (h : Move o s t) :
    t.h = s.h ∨
    (s.phase = .idle ∧ s.fault = false ∧ t.h = iv ∧ ∃ T, o = some T ∧ decode T = .instr .init) ∨
    (s.phase = .fold ∧ t.phase = .idle ∧ ∀ i : Fin 8, t.h[i] = s.h[i] + s.wr.toVec[i]) := by
  cases h with
  | init hp hf T hT hd => exact .inr (.inl ⟨hp, hf, rfl, T, hT, hd⟩)
  | fold hp => exact .inr (.inr ⟨hp, rfl, fun i => getElem_applyFold _ _ i.val i.isLt⟩)
  | _ => exact .inl (by simp)

/-- Settles O32: reset loads the IV, and of the moves INIT and the fold write H. -/
theorem digestChangesOnly : Obligations.DigestChangesOnly := by
  intro s t h
  rcases step_moves h with ⟨rest, hs, rfl⟩ | ⟨-, s', ⟨hh, hwr, -, -, -, hphase, -, hfault, -⟩, hmove⟩
  · exact .inr (.inl ⟨by simp [hs], rfl⟩)
  · rw [hh, hwr, hphase, hfault]
    exact hmove.digest.imp_right .inr

theorem Move.block_count {o : Option Txn} {s t : State} (h : Move o s t) :
    t.blkcnt = s.blkcnt ∨
    (s.phase = .idle ∧ s.fault = false ∧ t.blkcnt = 0 ∧ ∃ T, o = some T ∧ decode T = .instr .init) ∨
    (s.phase = .fold ∧ t.phase = .idle ∧ t.blkcnt = s.blkcnt + 1) := by
  cases h with
  | init hp hf T hT hd => exact .inr (.inl ⟨hp, hf, rfl, T, hT, hd⟩)
  | fold hp => exact .inr (.inr ⟨hp, rfl, rfl⟩)
  | _ => exact .inl (by simp)

/-- Settles O33: of the moves INIT and the fold write BLKCNT. -/
theorem blockCountChangesOnly : Obligations.BlockCountChangesOnly := by
  intro s t h
  rcases step_moves h with ⟨rest, hs, rfl⟩ | ⟨-, s', ⟨-, -, -, -, -, hphase, -, hfault, -, hblk, -⟩, hmove⟩
  · exact .inr (.inl ⟨by simp [hs], rfl⟩)
  · rw [hphase, hfault, hblk]
    exact hmove.block_count.imp_right .inr

/-- R34: setting valid bit i leaves every other bit. -/
theorem getLsbD_setValid (v : BitVec 16) (i k : Fin 16) :
    (setValid v i).getLsbD k = (v.getLsbD k || decide (k = i)) := by
  have one_bit : ∀ i k : Fin 16, ((1 : BitVec 16) <<< i.val).getLsbD k = decide (k = i) := by decide
  rw [setValid, BitVec.getLsbD_or, one_bit]

theorem getElem_setMsg (m : MsgWords) (i k : Fin 16) (d : Word) : (setMsg m i d)[k] = if k = i then d else m[k] := by
  simp [setMsg, Vector.getElem_set, Fin.ext_iff, eq_comm]

theorem Move.valid_bits {o : Option Txn} {s t : State} (h : Move o s t) (k : Fin 16) :
    (s.msgValid.getLsbD k = false → t.msgValid.getLsbD k = true →
      ∃ T d, o = some T ∧ decode T = .instr (.wmsg k d) ∧ t.msg[k] = d) ∧
    (s.msgValid.getLsbD k = true → t.msgValid.getLsbD k = false → t.msgValid = 0 ∧
      ∃ T, o = some T ∧ (decode T = .instr .init ∨ decode T = .instr .compress)) := by
  cases h with
  | init hp hf T hT hd => exact ⟨by simp, fun _ _ => ⟨rfl, T, hT, .inl hd⟩⟩
  | compress hp hf hv T hT hd => exact ⟨by simp, fun _ _ => ⟨rfl, T, hT, .inr hd⟩⟩
  | wmsg hp hf i d T hT hd =>
    simp only [respond_msgValid, respond_msg, writeMsg_msgValid, writeMsg_msg, getLsbD_setValid]
    constructor
    · intro hlow hrise
      rw [hlow, Bool.false_or, decide_eq_true_eq] at hrise
      subst hrise
      exact ⟨T, d, hT, hd, by rw [getElem_setMsg, if_pos rfl]⟩
    · intro hset hfall
      rw [hset, Bool.true_or] at hfall
      cases hfall
  | _ => simp +contextual

/-- Settles O34: of the moves INIT, COMPRESS and WMSG write MSGVALID. -/
theorem validBitsChangeOnly : Obligations.ValidBitsChangeOnly := by
  intro s t k h hnr
  obtain ⟨s', ⟨-, -, -, hvalid, -⟩, hmove⟩ := step_moves_not_reset h hnr
  rw [hvalid]
  exact hmove.valid_bits k

theorem Move.sequencer {o : Option Txn} {s t : State} (h : Move o s t) :
    (s.phase = .idle → t.phase = .idle ∨ (t.phase = .run ∧ t.rnd = 0 ∧ s.fault = false ∧ s.msgValid = 0xFFFF ∧
      ∃ T, o = some T ∧ decode T = .instr .compress)) ∧
    (s.phase = .run → (t.phase = .run ∧ t.rnd = s.rnd) ∨ (t.phase = .run ∧ s.rnd.toNat < 63 ∧ t.rnd = s.rnd + 1) ∨
      (t.phase = .fold ∧ s.rnd = 63 ∧ t.rnd = 0)) ∧
    (s.phase = .fold → (t.phase = .fold ∨ t.phase = .idle) ∧ t.rnd = s.rnd) := by
  cases h with
  | round hp =>
    refine ⟨by simp [hp], fun _ => .inr ?_, by simp [hp]⟩
    by_cases hr : s.rnd = 63
    · obtain ⟨hphase, hrnd⟩ := roundStep_last hr
      exact .inr ⟨hphase, hr, hrnd⟩
    · obtain ⟨hphase, hrnd⟩ := roundStep_next hr
      exact .inl ⟨hphase, by bv_omega, hrnd⟩
  | fold hp => simp [hp]
  | compress hp hf hv T hT hd => exact ⟨fun _ => .inr ⟨rfl, rfl, hf, hv, T, hT, hd⟩, by simp [hp], by simp [hp]⟩
  | _ => simp +contextual

/-- Settles O35, from what each move does to PHASE and RND. -/
theorem sequencerMoves : Obligations.SequencerMoves := by
  intro s t h hnr
  obtain ⟨s', ⟨-, -, -, hvalid, -, hphase, hrnd, hfault, -⟩, hmove⟩ := step_moves_not_reset h hnr
  rw [hvalid, hphase, hrnd, hfault]
  exact hmove.sequencer

end Sys2Proof.Machine
end

section
/-! PROOFS. The STATUS word field by field (10_state.md rule R48), the reset values (R54) and the constant tables (R44,
R45). -/

namespace Sys2Proof.Machine

/-! The STATUS word -/

theorem status_busy (s : State) : s.status.getLsbD 0 = s.busy := by
  rw [State.status, BitVec.getLsbD_append]
  simp

theorem status_fault (s : State) : s.status.getLsbD 1 = s.fault := by
  rw [State.status, BitVec.getLsbD_append, if_neg (by decide), BitVec.getLsbD_append]
  simp

theorem status_zeros (s : State) : s.status.extractLsb' 2 2 = 0 := by
  unfold State.status
  iterate 2 rw [BitVec.extractLsb'_append_eq_of_le (by decide)]
  exact BitVec.extractLsb'_append_eq_right

theorem status_cause (s : State) : s.status.extractLsb' 4 4 = s.cause.code := by
  unfold State.status
  iterate 3 rw [BitVec.extractLsb'_append_eq_of_le (by decide)]
  exact BitVec.extractLsb'_append_eq_right

theorem status_rnd (s : State) : s.status.extractLsb' 8 6 = s.rnd := by
  unfold State.status
  iterate 4 rw [BitVec.extractLsb'_append_eq_of_le (by decide)]
  exact BitVec.extractLsb'_append_eq_right

theorem status_phase (s : State) : s.status.extractLsb' 14 2 = s.phase.code := by
  unfold State.status
  iterate 5 rw [BitVec.extractLsb'_append_eq_of_le (by decide)]
  exact BitVec.extractLsb'_append_eq_right

theorem status_msgValid (s : State) : s.status.extractLsb' 16 16 = s.msgValid := by
  unfold State.status
  iterate 6 rw [BitVec.extractLsb'_append_eq_of_le (by decide)]
  exact BitVec.extractLsb'_eq_self

/-- R83, R114: STATUS is read-only. -/
theorem decode_write_status (d : Word) : decode (txnOf true 0x04 d) = .fault .accessDirection 0x104 := by
  rw [decode_txnOf]
  rfl

/-- Settles O15: exec of RDSTATUS answers `State.status`, whose fields are those above. -/
theorem rdstatusAnswersStatusFields : Obligations.RdstatusAnswersStatusFields := by
  refine ⟨by decide, by decide, decode_write_status, fun s => ⟨s.status, rfl, ?_, status_fault s, status_zeros s, ?_,
    status_rnd s, ?_, status_msgValid s⟩⟩
  · rw [status_busy, busy_true_iff]
  · rw [status_cause]
    cases s.cause <;> rfl
  · rw [status_phase]
    cases s.phase <;> rfl

/-! The reset state and the constants -/

/-- Settles O26. -/
theorem resetStateValues : Obligations.ResetStateValues :=
  ⟨rfl, rfl, rfl, rfl, rfl, rfl, rfl, rfl, rfl, by decide⟩

/-- Below 18 * 18 trial division by the numbers below 18 decides primality. -/
theorem prime_iff_trial_division {q : Nat} (hq : q < 18 * 18) :
    q.Prime ↔ 2 ≤ q ∧ ∀ m < 18, 2 ≤ m → m < q → ¬ m ∣ q := by
  rw [Nat.prime_def_le_sqrt]
  refine and_congr_right fun h2 => ⟨fun h m _ hm hlt hdvd => ?_, fun h m hm hle => ?_⟩
  · exact absurd hdvd ((Nat.prime_def_lt'.1 (Nat.prime_def_le_sqrt.2 ⟨h2, h⟩)).2 m hm hlt)
  · exact h m (hle.trans_lt (Nat.sqrt_lt.2 hq)) hm (hle.trans_lt (Nat.sqrt_lt_self h2))

/-- R44: the "prime" column of the table is the list of the primes below 312. -/
theorem firstPrimes_eq_filter : firstPrimes = (List.range 312).filter fun q => decide q.Prime := by
  have trial : firstPrimes = (List.range 312).filter fun q => decide (2 ≤ q ∧ ∀ m < 18, 2 ≤ m → m < q → ¬ m ∣ q) := by
    decide +kernel
  refine trial.trans (List.filter_congr fun q hq => ?_)
  rw [decide_eq_decide, prime_iff_trial_division (by have := List.mem_range.1 hq; omega)]

theorem mem_firstPrimes {q : Nat} : q ∈ firstPrimes ↔ q < 312 ∧ q.Prime := by
  simp [firstPrimes_eq_filter]

/-- R44: the whole part c and the 32 fraction bits bracket the cube root. -/
theorem kAt_cubeRoot : ∀ i : Fin 64, ∃ c : Nat, c < 8 ∧
    (c * 2 ^ 32 + (kAt (BitVec.ofFin i)).toNat) ^ 3 ≤ firstPrimes.getD i 0 * 2 ^ 96 ∧
    firstPrimes.getD i 0 * 2 ^ 96 < (c * 2 ^ 32 + (kAt (BitVec.ofFin i)).toNat + 1) ^ 3 := by decide +kernel

/-- R45: the same for the square root. -/
theorem iv_squareRoot : ∀ i : Fin 8, ∃ c : Nat, c < 8 ∧
    (c * 2 ^ 32 + iv[i].toNat) ^ 2 ≤ firstPrimes.getD i 0 * 2 ^ 64 ∧
    firstPrimes.getD i 0 * 2 ^ 64 < (c * 2 ^ 32 + iv[i].toNat + 1) ^ 2 := by decide +kernel

/-- Settles O43: the table's primes are the primes below 312, which gives the list's properties. -/
theorem constantsAreRootsOfPrimes : Obligations.ConstantsAreRootsOfPrimes := by
  refine ⟨rfl, fun p hp => (mem_firstPrimes.1 hp).2, ?_, fun q hlt hq => mem_firstPrimes.2 ⟨hlt, hq⟩, kAt_cubeRoot,
    iv_squareRoot⟩
  rw [firstPrimes_eq_filter]
  exact List.pairwise_lt_range.filter _

end Sys2Proof.Machine
end

section
/-! PROOFS. The schedule from the sixteen message words (41_compression.md rules R186 to R188) and the sliding window of
10_state.md rule R35. -/

namespace Sys2Proof.Machine

/-- R187: the entries written so far stay. -/
theorem wAt_schedUpTo_le (m : MsgWords) {n n' : Nat} (hle : n ≤ n') (hn' : n' ≤ 48) {k : BitVec 6}
    (hk : k.toNat < 16 + n) : wAt (schedUpTo m n') k = wAt (schedUpTo m n) k := by
  induction n', hle using Nat.le_induction with
  | base => rfl
  | succ n' hle ih =>
    have hne : k ≠ BitVec.ofNat 6 (16 + n') := by bv_omega
    rw [schedUpTo, wAt_expandSchedule_ne _ hne, ih (by omega)]

theorem wAt_sched_eq (m : MsgWords) {n : Nat} (hn : n ≤ 48) {k : BitVec 6} (hk : k.toNat < 16 + n) :
    wAt (sched m) k = wAt (schedUpTo m n) k :=
  wAt_schedUpTo_le m hn le_rfl hk

/-- R186: the schedule begins with the message words. -/
theorem wAt_sched_low (m : MsgWords) {k : BitVec 6} (hk : k.toNat < 16) : wAt (sched m) k = m[k.toNat] := by
  rw [wAt_sched_eq m (Nat.zero_le 48) hk, schedUpTo, wAt_eq, getElem_loadSchedule, dif_pos hk]

/-- R187: the finished schedule meets its own recurrence. -/
theorem wAt_sched_high (m : MsgWords) {j : BitVec 6} (hj : 16 ≤ j.toNat) :
    wAt (sched m) j = scheduleWord (sched m) j := by
  obtain ⟨n, hn⟩ : ∃ n, j.toNat = 16 + n := ⟨j.toNat - 16, by omega⟩
  have hj64 := j.isLt
  have hjn : BitVec.ofNat 6 (16 + n) = j := by bv_omega
  calc wAt (sched m) j = wAt (schedUpTo m (n + 1)) j := wAt_sched_eq m (by omega) (by omega)
    _ = scheduleWord (schedUpTo m n) j := by rw [schedUpTo, hjn, wAt_expandSchedule_self hj]
    _ = scheduleWord (sched m) j :=
      scheduleWord_congr hj fun k hk => (wAt_sched_eq m (by omega) (by omega)).symm

/-- R35: a slot of the slid window. -/
theorem getElem_slideWindow (v : MsgWords) (i : Nat) (hi : i < 16) :
    (slideWindow v)[i] = if h : i + 1 < 16 then v[i + 1] else ssig1 v[14] + v[9] + ssig0 v[1] + v[0] := by
  simp [slideWindow]

/-- R35: after n slides the window is W[n..n+15]. -/
theorem getElem_windowUpTo (m : MsgWords) {n : Nat} (hn : n ≤ 48) (i : Nat) (hi : i < 16) :
    (windowUpTo m n)[i] = wAt (sched m) (BitVec.ofNat 6 (n + i)) := by
  induction n generalizing i with
  | zero =>
    have hk : (BitVec.ofNat 6 (0 + i)).toNat = i := by
      rw [BitVec.toNat_ofNat]
      omega
    rw [wAt_sched_low m (by omega), windowUpTo]
    simp only [hk]
  | succ n ih =>
    have slot := fun i hi => ih (by omega) i hi
    rw [windowUpTo, getElem_slideWindow _ i hi]
    by_cases hlt : i + 1 < 16
    · rw [dif_pos hlt, slot (i + 1) hlt, Nat.add_right_comm, Nat.add_assoc]
    · obtain rfl : i = 15 := by omega
      have back : ∀ (c : BitVec 6) (k : Nat), c.toNat + k = 16 →
          BitVec.ofNat 6 (n + k) = BitVec.ofNat 6 (n + 1 + 15) - c := by
        intro c k hk
        bv_omega
      have high : 16 ≤ (BitVec.ofNat 6 (n + 1 + 15)).toNat := by
        rw [BitVec.toNat_ofNat]
        omega
      rw [dif_neg hlt, slot 14 (by decide), slot 9 (by decide), slot 1 (by decide), slot 0 (by decide),
        wAt_sched_high m high, scheduleWord, back 2 14 rfl, back 7 9 rfl, back 15 1 rfl, back 16 0 rfl]

/-- Settles O40: both sides are W[n + i]. -/
theorem slidingWindowGivesSchedule : Obligations.SlidingWindowGivesSchedule := by
  intro m n i
  have hn := n.isLt
  have hk : (BitVec.ofNat 6 (n.val + i.val)).toNat = n.val + i.val := by
    rw [BitVec.toNat_ofNat]
    omega
  refine (getElem_windowUpTo m (by omega) i.val i.isLt).trans ?_
  simp only [wAt_eq, hk]

end Sys2Proof.Machine
end

section
/-! PROOFS. What the spec leaves unspecified is never read (R50, R15): `SameDefined` is a simulation. Two states related
by it are one state with other values in a..h, MSG and W (`State.withRegs`), so each operation keeps the relation by
commuting with that replacement. -/

namespace Sys2Proof.Machine

/-- The state with other values in the registers that may be unspecified. -/
def State.withRegs (s : State) (wr : WorkRegs) (m : MsgWords) (w : Schedule) : State :=
  { s with wr := wr, msg := m, w := w }

/-- R50: these values agree with the state's on all that the rules have written. -/
def AgreesOnWritten (s : State) (wr : WorkRegs) (m : MsgWords) (w : Schedule) : Prop :=
  (∀ i : Fin 16, s.msgValid.getLsbD i = true → s.msg[i] = m[i]) ∧
  (s.busy = true → s.wr = wr ∧ ∀ k : Fin 64, k.val < wordsKnown s → s.w[k] = w[k])

/-- s' holds what AgreesOnWritten reads of s. -/
def SameBlock (s s' : State) : Prop :=
  s'.wr = s.wr ∧ s'.msg = s.msg ∧ s'.msgValid = s.msgValid ∧ s'.w = s.w ∧ s'.phase = s.phase ∧ s'.rnd = s.rnd

section
variable {s s' t : State} {wr : WorkRegs} {m : MsgWords} {w : Schedule}

theorem AgreesOnWritten.congr (h : AgreesOnWritten s wr m w) (e : SameBlock s s') : AgreesOnWritten s' wr m w := by
  obtain ⟨hwr, hmsg, hvalid, hw, hphase, hrnd⟩ := e
  simpa only [AgreesOnWritten, State.busy, wordsKnown, roundsDone, hwr, hmsg, hvalid, hw, hphase, hrnd] using h

theorem AgreesOnWritten.sameDefined (h : AgreesOnWritten s wr m w) : SameDefined s (s.withRegs wr m w) :=
  ⟨rfl, rfl, rfl, rfl, rfl, rfl, rfl, rfl, rfl, rfl, rfl, rfl, rfl, rfl, rfl, rfl, h⟩

theorem SameDefined.exists_withRegs (h : SameDefined s t) :
    ∃ wr m w, AgreesOnWritten s wr m w ∧ t = s.withRegs wr m w := by
  obtain ⟨hh, hvalid, hphase, hrnd, hfault, hcause, hblk, hinfo, hpending, htrace, hresp, hboot, hprog, hsched, hlead,
    hfree, hagree⟩ := h
  refine ⟨t.wr, t.msg, t.w, hagree, ?_⟩
  cases s
  cases t
  simp_all [State.withRegs]

/-! What related states read alike -/

theorem SameDefined.busy_eq (h : SameDefined s t) : s.busy = t.busy := by
  obtain ⟨_, _, _, -, rfl⟩ := h.exists_withRegs
  rfl

theorem SameDefined.booted_eq (h : SameDefined s t) : s.booted = t.booted := by
  obtain ⟨_, _, _, -, rfl⟩ := h.exists_withRegs
  rfl

theorem SameDefined.fault_eq (h : SameDefined s t) : s.fault = t.fault := by
  obtain ⟨_, _, _, -, rfl⟩ := h.exists_withRegs
  rfl

theorem SameDefined.pending_eq (h : SameDefined s t) : s.pending = t.pending := by
  obtain ⟨_, _, _, -, rfl⟩ := h.exists_withRegs
  rfl

theorem SameDefined.accepts_eq (h : SameDefined s t) (T : Txn) : s.accepts T = t.accepts T := by
  rw [State.accepts, State.accepts, h.busy_eq]

theorem SameDefined.canIssue_eq (h : SameDefined s t) : s.canIssue = t.canIssue := by
  obtain ⟨_, _, _, -, rfl⟩ := h.exists_withRegs
  rfl

/-! Operations that leave a..h, MSG and W alone -/

/-- An operation that leaves what AgreesOnWritten reads alone, and reads none of a..h, MSG and W, keeps the relation. -/
theorem SameDefined.map {f : State → State} (hblock : ∀ s, SameBlock s (f s))
    (hcomm : ∀ s wr m w, f (s.withRegs wr m w) = (f s).withRegs wr m w) (h : SameDefined s t) :
    SameDefined (f s) (f t) := by
  obtain ⟨wr, m, w, hagree, rfl⟩ := h.exists_withRegs
  rw [hcomm]
  exact (hagree.congr (hblock s)).sameDefined

theorem SameDefined.respond (h : SameDefined s t) (r : Resp) : SameDefined (s.respond r) (t.respond r) :=
  h.map (fun _ => by simp [SameBlock]) fun _ _ _ _ => rfl

theorem SameDefined.issueNext (h : SameDefined s t) : SameDefined s.issueNext t.issueNext := by
  refine h.map (fun _ => by simp [SameBlock]) fun s wr m w => ?_
  cases hp : s.pending <;> simp [State.issueNext, State.withRegs, hp]

theorem SameDefined.raiseFault (h : SameDefined s t) (c : Cause) (info : Word) :
    SameDefined (s.raiseFault c info) (t.raiseFault c info) := by
  refine h.map (fun _ => by simp [SameBlock]) fun s wr m w => ?_
  cases hf : s.fault <;> simp [State.raiseFault, State.recordFault, State.respond, State.withRegs, hf]

theorem takeTurn_withRegs (s : State) (wr : WorkRegs) (m : MsgWords) (w : Schedule) :
    (s.withRegs wr m w).takeTurn = (s.takeTurn.1, s.takeTurn.2.withRegs wr m w) := by
  have hbusy : (s.withRegs wr m w).busy = s.busy := rfl
  have hlead : (s.withRegs wr m w).hostLead = s.hostLead := rfl
  cases hs : s.sched with
  | cons turn rest => simp [State.takeTurn, State.withRegs, hs]
  | nil =>
    have hs' : (s.withRegs wr m w).sched = [] := hs
    cases hb : s.busy <;> simp only [State.takeTurn, hs, hs', hbusy, hlead, hb] <;> rfl

theorem SameDefined.takeTurn (h : SameDefined s t) :
    s.takeTurn.1 = t.takeTurn.1 ∧ SameDefined s.takeTurn.2 t.takeTurn.2 := by
  obtain ⟨wr, m, w, hagree, rfl⟩ := h.exists_withRegs
  rw [takeTurn_withRegs]
  exact ⟨rfl, (hagree.congr (by simp [SameBlock])).sameDefined⟩

/-! Operations that write some of them -/

/-- Reset overwrites them all. -/
theorem SameDefined.resetEvent (h : SameDefined s t) : SameDefined s.resetEvent t.resetEvent := by
  obtain ⟨wr, m, w, -, rfl⟩ := h.exists_withRegs
  have hagree : AgreesOnWritten s.resetEvent s.resetEvent.wr s.resetEvent.msg s.resetEvent.w :=
    ⟨fun _ _ => rfl, fun _ => ⟨rfl, fun _ _ => rfl⟩⟩
  exact hagree.sameDefined

theorem SameDefined.initDigest (h : SameDefined s t) : SameDefined s.initDigest t.initDigest := by
  obtain ⟨wr, m, w, ⟨-, hblock⟩, rfl⟩ := h.exists_withRegs
  have hagree : AgreesOnWritten s.initDigest wr m w := ⟨by simp, hblock⟩
  exact hagree.sameDefined

theorem SameDefined.writeMsg (h : SameDefined s t) (i : Fin 16) (d : Word) :
    SameDefined (s.writeMsg i d) (t.writeMsg i d) := by
  obtain ⟨wr, m, w, ⟨hmsg, hblock⟩, rfl⟩ := h.exists_withRegs
  have hagree : AgreesOnWritten (s.writeMsg i d) wr (setMsg m i d) w := by
    refine ⟨fun k hk => ?_, hblock⟩
    rw [writeMsg_msgValid, getLsbD_setValid, Bool.or_eq_true, decide_eq_true_eq] at hk
    rw [writeMsg_msg, getElem_setMsg, getElem_setMsg]
    split
    · rfl
    · next hne => exact hmsg k (hk.resolve_right hne)
  exact hagree.sameDefined

/-- R236: a complete block has every word of MSG written, and they are what the schedule loads. -/
theorem SameDefined.startBlock (h : SameDefined s t) (hv : s.blockComplete = true) :
    SameDefined s.startBlock t.startBlock := by
  obtain ⟨wr, m, w, ⟨hmsg, -⟩, rfl⟩ := h.exists_withRegs
  have hfull : s.msgValid = 0xFFFF := by simpa [State.blockComplete] using hv
  have hbits : ∀ i : Fin 16, (0xFFFF : BitVec 16).getLsbD i = true := by decide
  have hagree : AgreesOnWritten s.startBlock (WorkRegs.ofDigest s.h) (freeWords 16 s.free) (loadSchedule m w) := by
    refine ⟨by simp, fun _ => ⟨rfl, fun k hk => ?_⟩⟩
    have hk16 : k.val < 16 := hk
    have hload := fun (m : MsgWords) (w : Schedule) => getElem_loadSchedule m w k.val k.isLt
    refine (hload s.msg s.w).trans (Eq.trans ?_ (hload m w).symm)
    rw [dif_pos hk16, dif_pos hk16]
    exact hmsg ⟨k.val, hk16⟩ (hfull ▸ hbits _)
  exact hagree.sameDefined

/-- R187: a round's expansion reads and writes only words of the schedule that are then known. -/
theorem wAt_expandSchedule_congr {v w : Schedule} {j : BitVec 6}
    (h : ∀ k : BitVec 6, k.toNat < max 16 j.toNat → wAt v k = wAt w k) {k : BitVec 6}
    (hk : k.toNat < max 16 (j.toNat + 1)) : wAt (expandSchedule v j) k = wAt (expandSchedule w j) k := by
  by_cases hlow : j.toNat < 16
  · rw [expandSchedule_low hlow, expandSchedule_low hlow]
    exact h k (by omega)
  · by_cases hkj : k = j
    · subst hkj
      rw [wAt_expandSchedule_self (by omega), wAt_expandSchedule_self (by omega)]
      exact scheduleWord_congr (by omega) fun i hi => h i (by omega)
    · rw [wAt_expandSchedule_ne v hkj, wAt_expandSchedule_ne w hkj]
      have hne : k.toNat ≠ j.toNat := mt BitVec.eq_of_toNat_eq hkj
      exact h k (by omega)

theorem SameDefined.roundStep (h : SameDefined s t) (hp : s.phase = .run) : SameDefined s.roundStep t.roundStep := by
  obtain ⟨wr, m, w, ⟨hmsg, hblock⟩, rfl⟩ := h.exists_withRegs
  obtain ⟨rfl, hw⟩ := hblock ((busy_true_iff s).2 (by simp [hp]))
  have hknown : ∀ k : BitVec 6, k.toNat < max 16 s.rnd.toNat → wAt s.w k = wAt w k := fun k hk =>
    hw k.toFin (by simpa [wordsKnown, roundsDone, hp] using hk)
  have hexpand := fun k => wAt_expandSchedule_congr hknown (k := k)
  have hround : wAt (expandSchedule w s.rnd) s.rnd = wAt (expandSchedule s.w s.rnd) s.rnd :=
    (hexpand s.rnd (by omega)).symm
  have hcomm : (s.withRegs s.wr m w).roundStep = s.roundStep.withRegs s.roundStep.wr m (expandSchedule w s.rnd) := by
    dsimp only [State.roundStep, State.withRegs]
    rw [hround]
  have hagree : AgreesOnWritten s.roundStep s.roundStep.wr m (expandSchedule w s.rnd) := by
    refine ⟨hmsg, fun _ => ⟨rfl, fun k hk => hexpand (BitVec.ofFin k) ?_⟩⟩
    rwa [wordsKnown, roundsDone_roundStep] at hk
  exact hcomm ▸ hagree.sameDefined

theorem SameDefined.foldStep (h : SameDefined s t) (hp : s.phase = .fold) : SameDefined s.foldStep t.foldStep := by
  obtain ⟨wr, m, w, ⟨hmsg, hblock⟩, rfl⟩ := h.exists_withRegs
  obtain ⟨rfl, -⟩ := hblock ((busy_true_iff s).2 (by simp [hp]))
  have hagree : AgreesOnWritten s.foldStep s.wr m w := ⟨hmsg, by simp [State.busy]⟩
  exact hagree.sameDefined

theorem SameDefined.engineStep (h : SameDefined s t) : SameDefined s.engineStep t.engineStep := by
  have hpt : t.phase = s.phase := by
    obtain ⟨_, _, _, -, rfl⟩ := h.exists_withRegs
    rfl
  cases hp : s.phase <;> rw [hp] at hpt
  case idle => rw [engineStep_idle hp, engineStep_idle hpt]; exact h
  case run => rw [engineStep_run hp, engineStep_run hpt]; exact h.roundStep hp
  case fold => rw [engineStep_fold hp, engineStep_fold hpt]; exact h.foldStep hp

/-! Transactions -/

theorem SameDefined.acceptWrite {e : State → State} (h : SameDefined s t) (he : SameDefined (e s) (e t)) :
    SameDefined (s.acceptWrite e) (t.acceptWrite e) := by
  unfold State.acceptWrite
  rw [← h.busy_eq, ← h.fault_eq]
  split
  · exact h
  · split
    · exact h.respond .err
    · exact he

theorem SameDefined.acceptRead {v : State → Word} (h : SameDefined s t) (hv : v s = v t) :
    SameDefined (s.acceptRead v) (t.acceptRead v) := by
  unfold State.acceptRead
  rw [← h.busy_eq, ← hv]
  split
  · exact h
  · exact h.respond _

theorem SameDefined.exec (h : SameDefined s t) (i : Instr) :
    SameOutcome SameDefined (Machine.exec i s) (Machine.exec i t) := by
  obtain ⟨wr, m, w, -, ht⟩ := h.exists_withRegs
  cases i with
  | nop => exact h.acceptWrite (h.respond .ok)
  | init => exact h.acceptWrite (h.initDigest.respond .ok)
  | compress =>
    have hcomplete : t.blockComplete = s.blockComplete := by rw [ht]; rfl
    have hvalid : t.msgValid = s.msgValid := by rw [ht]; rfl
    refine h.acceptWrite ?_
    rw [hcomplete, hvalid]
    split
    · next hv => exact (h.startBlock hv).respond .ok
    · exact h.raiseFault _ _
  | wmsg k d => exact h.acceptWrite ((h.writeMsg k d).respond .ok)
  | rdstatus =>
    have hstatus : s.status = t.status := by rw [ht]; rfl
    change SameDefined (s.respond (.okData s.status)) (t.respond (.okData t.status))
    rw [← hstatus]
    exact h.respond _
  | rdblklo => exact h.acceptRead (by rw [ht]; rfl)
  | rdblkhi => exact h.acceptRead (by rw [ht]; rfl)
  | rdfinfo => exact h.acceptRead (by rw [ht]; rfl)
  | rdh k => exact h.acceptRead (by rw [ht]; rfl)

theorem SameDefined.hostAccept (h : SameDefined s t) (T : Txn) :
    SameOutcome SameDefined (Machine.hostAccept T s) (Machine.hostAccept T t) := by
  unfold Machine.hostAccept
  cases decode T with
  | fault c info => exact h.raiseFault c info
  | instr i => exact h.exec i

theorem SameDefined.hostStep (h : SameDefined s t) (T : Txn) :
    SameOutcome SameDefined (Machine.hostStep T s) (Machine.hostStep T t) := by
  unfold Machine.hostStep
  rw [← h.accepts_eq]
  split
  · exact h.hostAccept T
  · exact h

/-! Turns and the step -/

theorem SameDefined.hostTurn (h : SameDefined s t) :
    SameOutcome SameDefined (Machine.hostTurn s) (Machine.hostTurn t) := by
  have hi := h.issueNext
  unfold Machine.hostTurn
  rw [← hi.pending_eq]
  cases s.issueNext.pending with
  | none => exact hi.engineStep
  | some T =>
    simp only [← hi.accepts_eq T]
    split
    · exact hi.hostStep T
    · exact hi.engineStep

theorem SameDefined.engineTurn (h : SameDefined s t) :
    SameOutcome SameDefined (Machine.engineTurn s) (Machine.engineTurn t) := by
  unfold Machine.engineTurn
  rw [← h.busy_eq]
  split
  · exact h.engineStep
  · exact h.hostTurn

theorem SameDefined.issueTurn (h : SameDefined s t) :
    SameOutcome SameDefined (Machine.issueTurn s) (Machine.issueTurn t) := by
  unfold Machine.issueTurn
  rw [← h.canIssue_eq]
  split
  · exact h.issueNext
  · exact h.hostTurn

theorem SameDefined.beforeReset (h : SameDefined s t) :
    SameOutcome SameDefined (Machine.beforeReset s) (Machine.beforeReset t) := by
  unfold Machine.beforeReset
  rw [← h.issueNext.pending_eq]
  split <;> rfl

theorem SameDefined.runTurn (h : SameDefined s t) (turn : Turn) :
    SameOutcome SameDefined (Machine.runTurn turn s) (Machine.runTurn turn t) := by
  have booted_or : ∀ {x y : Host.Outcome State Fault Refusal}, SameOutcome SameDefined x y →
      SameOutcome SameDefined (if s.booted then x else Machine.beforeReset s)
        (if t.booted then y else Machine.beforeReset t) := by
    intro x y hxy
    rw [← h.booted_eq]
    split
    · exact hxy
    · exact h.beforeReset
  cases turn with
  | reset => exact h.resetEvent
  | host => exact booted_or h.hostTurn
  | engine => exact booted_or h.engineTurn
  | issue => exact booted_or h.issueTurn

end

/-- Settles O38: the turn taken is the same, and each turn keeps the relation. -/
theorem unwrittenStateIsNeverRead : Obligations.UnwrittenStateIsNeverRead := by
  intro s t h
  obtain ⟨hturn, hstate⟩ := h.takeTurn
  unfold step
  rw [← hturn]
  exact hstate.runTurn s.takeTurn.1

end Sys2Proof.Machine
end

section
/-! PROOFS. What STATUS shows during a compression (20_memory.md rule R94, 42_host_interface.md rule R238): the flags
that engine steps keep, the phase and round after each number of them, and the STATUS word of each phase. -/

namespace Sys2Proof.Machine

/-! Runs of engine steps -/

@[simp] theorem engineSteps_msgValid (k : Nat) (s : State) : (s.engineSteps k).msgValid = s.msgValid := by
  induction k generalizing s with
  | zero => rfl
  | succ k ih => exact (ih s.engineStep).trans (engineStep_msgValid s)

@[simp] theorem engineSteps_fault (k : Nat) (s : State) : (s.engineSteps k).fault = s.fault := by
  induction k generalizing s with
  | zero => rfl
  | succ k ih => exact (ih s.engineStep).trans (engineStep_fault s)

@[simp] theorem engineSteps_cause (k : Nat) (s : State) : (s.engineSteps k).cause = s.cause := by
  induction k generalizing s with
  | zero => rfl
  | succ k ih => exact (ih s.engineStep).trans (engineStep_cause s)

/-- R252: the steps of a run, the last one told apart. -/
theorem engineSteps_succ (k : Nat) (s : State) : s.engineSteps (k + 1) = (s.engineSteps k).engineStep := by
  induction k generalizing s with
  | zero => rfl
  | succ k ih => exact ih s.engineStep

/-- R250: up to round 63 the engine stays in RUN, and each step counts one round. -/
theorem engineSteps_in_rounds {s : State} {k : Nat} (hp : s.phase = .run) (hk : s.rnd.toNat + k ≤ 63) :
    (s.engineSteps k).phase = .run ∧ (s.engineSteps k).rnd.toNat = s.rnd.toNat + k := by
  induction k with
  | zero => exact ⟨hp, rfl⟩
  | succ k ih =>
    obtain ⟨hrun, hrnd⟩ := ih (by omega)
    have hne : (s.engineSteps k).rnd ≠ 63 := by bv_omega
    obtain ⟨hphase, hnext⟩ := roundStep_next hne
    rw [engineSteps_succ, engineStep_run hrun]
    exact ⟨hphase, by bv_omega⟩

/-- R250: the step of round 63 leads to FOLD with RND = 0. -/
theorem engineSteps_after_rounds {s : State} {k : Nat} (hp : s.phase = .run) (hk : s.rnd.toNat + k = 64) :
    (s.engineSteps k).phase = .fold ∧ (s.engineSteps k).rnd = 0 := by
  obtain ⟨j, rfl⟩ : ∃ j, k = j + 1 := ⟨k - 1, by have := s.rnd.isLt; omega⟩
  obtain ⟨hrun, hrnd⟩ := engineSteps_in_rounds (k := j) hp (by omega)
  rw [engineSteps_succ, engineStep_run hrun]
  exact roundStep_last (by bv_omega)

/-- R251: the fold leads to IDLE and leaves RND at 0. -/
theorem engineSteps_after_fold {s : State} {k : Nat} (hp : s.phase = .run) (hk : s.rnd.toNat + k = 65) :
    (s.engineSteps k).phase = .idle ∧ (s.engineSteps k).rnd = 0 := by
  obtain ⟨j, rfl⟩ : ∃ j, k = j + 1 := ⟨k - 1, by have := s.rnd.isLt; omega⟩
  obtain ⟨hfold, hrnd⟩ := engineSteps_after_rounds (k := j) hp (by omega)
  rw [engineSteps_succ, engineStep_fold hfold]
  exact ⟨foldStep_phase _, hrnd⟩

/-! The STATUS word with no word of a block valid and no fault recorded -/

/-- The part of STATUS that no engine step changes, as a COMPRESS leaves it (R236): no valid bit, no fault. -/
def ClearStatus (s : State) : Prop := s.msgValid = 0 ∧ s.fault = false ∧ s.cause = .none

theorem ClearStatus.engineSteps {s : State} (h : ClearStatus s) (k : Nat) : ClearStatus (s.engineSteps k) := by
  simpa [ClearStatus] using h

/-- R48: then only PHASE, RND and BUSY are left of STATUS. -/
theorem ClearStatus.status_eq {s : State} (h : ClearStatus s) :
    s.status = (0 : BitVec 16) ++ s.phase.code ++ s.rnd ++ (0 : BitVec 4) ++ (0 : BitVec 2) ++ (0 : BitVec 1)
      ++ BitVec.ofBool (s.phase != .idle) := by
  obtain ⟨hvalid, hfault, hcause⟩ := h
  rw [State.status, hvalid, hfault, hcause]
  rfl

theorem ClearStatus.status_run {s : State} (h : ClearStatus s) (hp : s.phase = .run) :
    s.status = 0x00004001 ||| (BitVec.ofNat 32 s.rnd.toNat <<< 8) := by
  rw [h.status_eq, hp]
  generalize s.rnd = r
  revert r
  decide

theorem ClearStatus.status_fold {s : State} (h : ClearStatus s) (hp : s.phase = .fold) (hr : s.rnd = 0) :
    s.status = 0x00008001 := by
  rw [h.status_eq, hp, hr]
  decide

theorem ClearStatus.status_idle {s : State} (h : ClearStatus s) (hp : s.phase = .idle) (hr : s.rnd = 0) :
    s.status = 0 := by
  rw [h.status_eq, hp, hr]
  decide

/-- R94, R238: STATUS after each number of engine steps of a block that starts at round 0. -/
theorem ClearStatus.status_engineSteps {s : State} (h : ClearStatus s) (hp : s.phase = .run) (hr : s.rnd = 0) {k : Nat}
    (hk : k ≤ 65) :
    (s.engineSteps k).status =
      if k ≤ 63 then 0x00004001 ||| (BitVec.ofNat 32 k <<< 8) else if k = 64 then 0x00008001 else 0x00000000 := by
  have hk' := h.engineSteps k
  have hr0 : s.rnd.toNat = 0 := by rw [hr]; rfl
  split
  case isTrue hle =>
    obtain ⟨hrun, hrnd⟩ := engineSteps_in_rounds (k := k) hp (by omega)
    rw [hk'.status_run hrun, hrnd, hr0, Nat.zero_add]
  case isFalse hgt =>
    split
    case isTrue h64 =>
      obtain ⟨hfold, hrnd⟩ := engineSteps_after_rounds (k := k) hp (by omega)
      exact hk'.status_fold hfold hrnd
    case isFalse h64 =>
      obtain ⟨hidle, hrnd⟩ := engineSteps_after_fold (k := k) hp (by omega)
      exact hk'.status_idle hidle hrnd

/-- R236: COMPRESS accepted with a complete block and no fault. -/
theorem exec_compress_complete {s : State} (hp : s.phase = .idle) (hf : s.fault = false) (hv : s.msgValid = 0xFFFF) :
    exec .compress s = .next (s.startBlock.respond .ok) := by
  have hc : s.blockComplete = true := by rw [State.blockComplete, hv]; rfl
  rw [exec, execCompress, acceptWrite_go _ hp hf, if_pos hc]

/-- R51: without a fault the cause is NONE, so COMPRESS leaves a clear STATUS. -/
theorem clearStatus_startBlock {s : State} (hi : StateInv s) (hf : s.fault = false) (r : Resp) :
    ClearStatus (s.startBlock.respond r) := by
  obtain ⟨-, -, hclear, -⟩ := hi
  simpa [ClearStatus, hf] using (hclear hf).1

/-- Settles O23: the block starts in RUN at round 0 with a clear STATUS. -/
theorem statusDuringCompression : Obligations.StatusDuringCompression := by
  intro s hi hp hf hv
  have hclear := clearStatus_startBlock hi hf .ok
  exact ⟨_, exec_compress_complete hp hf hv, fun k hk => ⟨_, rfl, hclear.status_engineSteps rfl rfl hk⟩⟩

end Sys2Proof.Machine
end

section
/-! PROOFS. Accesses that perform nothing: the misaligned transaction (20_memory.md rule R83) with the fault it raises
(60_exceptions.md rule R282), and the platform adapter in front of the window (20_memory.md rules R81 and R82). -/

namespace Sys2Proof.Machine

/-! The misaligned transaction -/

/-- R114: the alignment check comes first. -/
theorem decode_misaligned {t : Txn} (h : t.addr.extractLsb' 0 2 ≠ 0) :
    decode t = .fault .misaligned (accessInfo t.we t.addr) := if_pos h

/-- R282: the first fault is recorded and answered ERR. -/
theorem raiseFault_not_faulted {s : State} (hf : s.fault = false) (c : Cause) (info : Word) :
    s.raiseFault c info = { s with
      fault := true, cause := c, faultInfo := info, pending := none, responses := s.responses ++ [.err] } := by
  rw [State.raiseFault, State.recordFault, hf]
  rfl

/-- R282: a later fault is answered ERR and records nothing. -/
theorem raiseFault_faulted {s : State} (hf : s.fault = true) (c : Cause) (info : Word) :
    s.raiseFault c info = s.respond .err := by
  rw [State.raiseFault, State.recordFault, if_pos hf]

/-- R243: in IDLE the transaction on the port is accepted. -/
theorem hostStep_idle {s : State} (t : Txn) (hp : s.phase = .idle) : hostStep t s = hostAccept t s :=
  if_pos ((accepts_iff s t).2 (.inl hp))

/-- R232: acceptance of a transaction that decodes to a fault class. -/
theorem hostAccept_fault {t : Txn} {c : Cause} {info : Word} (h : decode t = .fault c info) (s : State) :
    hostAccept t s = .next (s.raiseFault c info) := by
  rw [hostAccept, h]

/-- Settles O9: in IDLE a misaligned transaction raises the fault that decode gives it. -/
theorem misalignedAccessFaults : Obligations.MisalignedAccessFaults := by
  intro s t hp hmis
  rw [hostStep_idle t hp, hostAccept_fault (decode_misaligned hmis)]
  exact ⟨fun hf => by rw [raiseFault_not_faulted hf], fun hf => by rw [raiseFault_faulted hf]; rfl⟩

/-! The platform adapter -/

section
variable {base : Nat} {a : BusAccess}

theorem adaptAccess_outside (h : a.address < base ∨ base + 256 ≤ a.address) : adaptAccess base a = .notThisWindow :=
  if_pos h

theorem adaptAccess_otherWidth (hlo : base ≤ a.address) (hhi : a.address < base + 256) (hw : a.sizeBits ≠ 32) :
    adaptAccess base a = .refusedWidth := by
  rw [adaptAccess, if_neg (by omega), if_pos hw]

theorem adaptAccess_word (hlo : base ≤ a.address) (hhi : a.address < base + 256) (hw : a.sizeBits = 32) :
    adaptAccess base a =
      .txn (txnOf a.write (BitVec.ofNat 8 (a.address - base)) (if a.write then a.data else 0)) := by
  rw [adaptAccess, if_neg (by omega), if_neg (not_not_intro hw)]

/-- R81: the window is 256 bytes, so the 8-bit offset loses nothing of an address inside it. -/
theorem base_add_windowOffset (hlo : base ≤ a.address) (hhi : a.address < base + 256) :
    base + (BitVec.ofNat 8 (a.address - base)).toNat = a.address := by
  rw [BitVec.toNat_ofNat]
  omega

end

/-- Settles O50, from the three answers of the adapter and the fields of the word it makes. -/
theorem adapterReachesWindow : Obligations.AdapterReachesWindow := by
  refine fun base a => ⟨adaptAccess_outside, adaptAccess_otherWidth, fun hlo hhi hw =>
    ⟨_, adaptAccess_word hlo hhi hw, txnOf_we _ _ _, ?_, fun hwrite => ?_⟩⟩
  · rw [txnOf_addr, base_add_windowOffset hlo hhi]
  · rw [txnOf_data, if_pos hwrite]

end Sys2Proof.Machine
end

section
/-! PROOFS. The encoding (30_encoding.md rules R110 to R120). A word decodes to a named transaction exactly when it is
that transaction's own word, the DATA of a read aside (decode_eq_instr_iff); the opcode map and the
disassembler follow. -/

namespace Sys2Proof

/-! The registers of the window and their offsets -/

/-- R47: the offset of a register. -/
def Reg.offset : Reg → Offset
  | .ctrl => 0x00
  | .status => 0x04
  | .blkcntLo => 0x08
  | .blkcntHi => 0x0C
  | .faultInfo => 0x10
  | .h i => digestOffset i
  | .msg i => msgOffset i

theorem offset_of_regAt : ∀ a : Offset, a.extractLsb' 0 2 = 0 → ∀ r ∈ regAt a, a = r.offset := by
  decide

theorem offset_aligned (r : Reg) : r.offset.extractLsb' 0 2 = 0 := by
  cases r with
  | h i => revert i; decide
  | msg i => revert i; decide
  | _ => decide

theorem regAt_offset (r : Reg) : regAt r.offset = some r := by
  cases r with
  | h i => revert i; decide
  | msg i => revert i; decide
  | _ => decide

/-- R114: an access to a register passes the checks of alignment and mapping. -/
theorem decode_at_register (b : Bool) (r : Reg) (d : Word) :
    decode (txnOf b r.offset d) = if b then decodeWrite r.offset d r else decodeRead r.offset r := by
  rw [decode_txnOf, if_neg (not_not_intro (offset_aligned r)), regAt_offset]

/-- R114: the alignment check, the mapping check, and the registers. -/
theorem offset_cases (a : Offset) :
    a.extractLsb' 0 2 ≠ 0 ∨ (a.extractLsb' 0 2 = 0 ∧ regAt a = none) ∨ ∃ r : Reg, a = r.offset := by
  by_cases ha : a.extractLsb' 0 2 = 0
  · cases hr : regAt a with
    | none => exact .inr (.inl ⟨ha, rfl⟩)
    | some r => exact .inr (.inr ⟨r, offset_of_regAt a ha r hr⟩)
  · exact .inl ha

theorem decode_at_misaligned (b : Bool) {a : Offset} (ha : a.extractLsb' 0 2 ≠ 0) (d : Word) :
    decode (txnOf b a d) = .fault .misaligned (accessInfo b a) := by
  rw [decode_txnOf, if_pos ha]

theorem decode_at_unmapped (b : Bool) {a : Offset} (ha : a.extractLsb' 0 2 = 0) (hr : regAt a = none) (d : Word) :
    decode (txnOf b a d) = .fault .unmapped (accessInfo b a) := by
  rw [decode_txnOf, if_neg (not_not_intro ha), hr]

/-! The command word -/

/-- R112: the fields of a command word beyond 2, read as one number. -/
theorem command_illegal_iff (d : Word) :
    (d.extractLsb' 4 28 ≠ 0 ∨ 3 ≤ (d.extractLsb' 0 4).toNat) ↔ 3 ≤ d.toNat := by
  have high : (d.extractLsb' 4 28).toNat = d.toNat / 16 := by
    rw [BitVec.extractLsb'_toNat, Nat.shiftRight_eq_div_pow]
    omega
  have low : (d.extractLsb' 0 4).toNat = d.toNat % 16 := by
    rw [BitVec.extractLsb'_toNat, Nat.shiftRight_zero]
  have zero : (0 : BitVec 28).toNat = 0 := rfl
  rw [Ne, ← BitVec.toNat_inj, high, low, zero]
  omega

/-- R112: the three commands, and every other command word. -/
theorem decodeCommand_cases (d : Word) :
    (d = 0 ∧ decodeCommand d = .instr .nop) ∨ (d = 1 ∧ decodeCommand d = .instr .init) ∨
    (d = 2 ∧ decodeCommand d = .instr .compress) ∨ (3 ≤ d.toNat ∧ decodeCommand d = .fault .illegalCommand d) := by
  by_cases h : 3 ≤ d.toNat
  · exact .inr (.inr (.inr ⟨h, if_pos ((command_illegal_iff d).2 h)⟩))
  · obtain rfl | rfl | rfl : d = 0 ∨ d = 1 ∨ d = 2 := by bv_omega
    · exact .inl ⟨rfl, by decide⟩
    · exact .inr (.inl ⟨rfl, by decide⟩)
    · exact .inr (.inr (.inl ⟨rfl, by decide⟩))

/-! Decode against encode -/

theorem decode_encode (i : Instr) : decode (encode i) = .instr i := by
  cases i with
  | wmsg k d => exact decode_at_register true (.msg k) d
  | rdh k => exact decode_at_register false (.h k) 0
  | _ => decide

theorem encode_of_decodeWrite {r : Reg} {d : Word} {i : Instr} (h : decodeWrite r.offset d r = .instr i) :
    encode i = txnOf true r.offset d := by
  cases r with
  | ctrl =>
    change decodeCommand d = .instr i at h
    obtain ⟨rfl, e⟩ | ⟨rfl, e⟩ | ⟨rfl, e⟩ | ⟨-, e⟩ := decodeCommand_cases d <;> cases e.symm.trans h <;> rfl
  | msg k => cases h; rfl
  | _ => cases h

theorem encode_of_decodeRead {r : Reg} {i : Instr} (h : decodeRead r.offset r = .instr i) :
    encode i = txnOf false r.offset 0 := by
  cases r <;> cases h <;> rfl

theorem canonical_txnOf (b : Bool) (a : Offset) (d : Word) :
    Txn.canonical (txnOf b a d) = txnOf b a (if b then d else 0) := by
  simp [Txn.canonical]

/-- R110: every word is made of its three fields. -/
theorem exists_txnOf (t : Txn) : ∃ b a d, t = txnOf b a d := ⟨_, _, _, (txnOf_fields t).symm⟩

/-- R117: a decoder does not read the DATA of a read. -/
theorem decode_read_data (a : Offset) (d d' : Word) : decode (txnOf false a d) = decode (txnOf false a d') := by
  simp only [decode_txnOf, Bool.false_eq_true, if_false]

theorem decode_canonical (t : Txn) : decode t.canonical = decode t := by
  obtain ⟨b, a, d, rfl⟩ := exists_txnOf t
  rw [canonical_txnOf]
  cases b with
  | false => exact decode_read_data a 0 d
  | true => rfl

/-- R115, R117: T decodes to a named transaction exactly when, a read's DATA aside, it is that transaction's word. -/
theorem decode_eq_instr_iff (t : Txn) (i : Instr) : decode t = .instr i ↔ t.canonical = encode i := by
  refine ⟨fun h => ?_, fun h => by rw [← decode_canonical, h, decode_encode]⟩
  obtain ⟨b, a, d, rfl⟩ := exists_txnOf t
  obtain ha | ⟨ha, hr⟩ | ⟨r, rfl⟩ := offset_cases a
  · cases (decode_at_misaligned b ha d).symm.trans h
  · cases (decode_at_unmapped b ha hr d).symm.trans h
  · rw [decode_at_register] at h
    rw [canonical_txnOf]
    cases b with
    | false => exact (encode_of_decodeRead h).symm
    | true => exact (encode_of_decodeWrite h).symm

/-- Settles O1: each word passes R114's checks at its own register (`decode_at_register`). -/
theorem decodeOfEncode : Obligations.DecodeOfEncode := decode_encode

/-- R243: the host's step reads of T what it decodes to and whether it is RDSTATUS. -/
theorem hostStep_congr {t t' : Txn} (hd : decode t = decode t') (hr : isRdStatus t = isRdStatus t')
    (s : Machine.State) : Machine.hostStep t s = Machine.hostStep t' s := by
  rw [Machine.hostStep, Machine.hostStep, Machine.hostAccept, Machine.hostAccept, Machine.State.accepts,
    Machine.State.accepts, hd, hr]

theorem isRdStatus_read_data (a : Offset) (d d' : Word) :
    isRdStatus (txnOf false a d) = isRdStatus (txnOf false a d') := by
  rw [Bool.eq_iff_iff, isRdStatus_iff, isRdStatus_iff]
  simp only [txnOf_we, txnOf_addr]

/-- Settles O3: neither decode nor the test for RDSTATUS reads the DATA of a read. -/
theorem readDataIgnored : Obligations.ReadDataIgnored := by
  refine ⟨decode_read_data, fun a d d' => hostStep_congr (decode_read_data a d d') (isRdStatus_read_data a d d'),
    fun i hi => ?_⟩
  cases i with
  | nop | init | compress | wmsg => cases hi
  | _ => exact txnOf_data _ _ _

/-! The opcode map -/

theorem selects_iff (r : OpcodeRow) (t : Txn) : r.selects t = true ↔ t &&& r.mask = r.value := by
  simp [OpcodeRow.selects]

/-- R115: the nine rows are the rows of the named transactions. -/
theorem mem_opcodeRows_iff (r : OpcodeRow) : r ∈ opcodeRows ↔ ∃ i : Instr, i.row = r := by
  constructor
  · intro h
    simp only [opcodeRows, List.mem_cons, List.not_mem_nil, or_false] at h
    rcases h with rfl | rfl | rfl | rfl | rfl | rfl | rfl | rfl | rfl <;> exact ⟨_, rfl⟩
  · rintro ⟨i, rfl⟩
    cases i <;> simp [opcodeRows, Instr.row]

/-- R115: a row's choice of words, by the fields of its mask and its value. -/
theorem selects_iff_fields (r : OpcodeRow) (b : Bool) (a : Offset) (d : Word) :
    r.selects (txnOf b a d) = true ↔
      (b && r.mask.we) = r.value.we ∧ a &&& r.mask.addr = r.value.addr ∧ d &&& r.mask.data = r.value.data := by
  rw [← selects_txnOf, txnOf_fields, txnOf_fields]

/-- R115: the row of WMSG by fields, whatever the operands. -/
theorem row_wmsg (k : Fin 16) (d : Word) :
    Instr.row (.wmsg k d) = ⟨txnOf true 0xc3 0, txnOf true 0x40 0⟩ := by
  change Instr.row (.wmsg 0 0) = _
  decide

/-- R115: the row of RDH by fields, whatever the operand. -/
theorem row_rdh (k : Fin 8) : Instr.row (.rdh k) = ⟨txnOf true 0xe3 0, txnOf false 0x20 0⟩ := by
  change Instr.row (.rdh 0) = _
  decide

/-- R117: the row of a read does not look at DATA. -/
theorem mask_data_of_read {i : Instr} (hi : i.isWrite = false) : i.row.mask.data = 0 := by
  cases i with
  | nop | init | compress | wmsg => cases hi
  | rdh k => rw [row_rdh, txnOf_data]
  | _ => rfl

theorem selects_encode (i : Instr) : i.row.selects (encode i) = true := by
  cases i with
  | nop => exact Laws.OwnRow.nop.1
  | init => exact Laws.OwnRow.init.1
  | compress => exact Laws.OwnRow.compress.1
  | wmsg k d => exact (Laws.OwnRow.wmsg k d).1
  | rdstatus => exact Laws.OwnRow.rdstatus.1
  | rdblklo => exact Laws.OwnRow.rdblklo.1
  | rdblkhi => exact Laws.OwnRow.rdblkhi.1
  | rdfinfo => exact Laws.OwnRow.rdfinfo.1
  | rdh k => exact (Laws.OwnRow.rdh k).1

/-- R115: a word matches the row of the transaction it decodes to. -/
theorem selects_of_decode {t : Txn} {i : Instr} (h : decode t = .instr i) : i.row.selects t = true := by
  have hw := decode_we h
  have hown := selects_encode i
  rw [← (decode_eq_instr_iff t i).1 h] at hown
  obtain ⟨b, a, d, rfl⟩ := exists_txnOf t
  rw [canonical_txnOf] at hown
  cases b with
  | true => exact hown
  | false =>
    have hmask := mask_data_of_read (hw.symm.trans (txnOf_we false a d))
    simpa [selects_iff_fields, hmask] using hown

/-- R115: the row of a read selects by WE = 0 and by the offset of a read-only register. -/
theorem read_of_selects {i : Instr} (hi : i.isWrite = false) {b : Bool} {a : Offset} {d : Word}
    (h : i.row.selects (txnOf b a d) = true) : b = false ∧ ∃ r : Reg, r.readOnly = true ∧ a = r.offset := by
  obtain ⟨hb, ha, -⟩ := (selects_iff_fields _ _ _ _).1 h
  have full : a &&& 0xff = a := BitVec.and_allOnes
  cases i with
  | nop | init | compress | wmsg => cases hi
  | rdh k =>
    rw [row_rdh, txnOf_we, txnOf_we, Bool.and_true] at hb
    rw [row_rdh, txnOf_addr, txnOf_addr] at ha
    obtain ⟨k, hk⟩ := (by decide : ∀ a : Offset, a &&& 0xe3 = 0x20 → ∃ k, a = digestOffset k) a ha
    exact ⟨hb, .h k, rfl, hk⟩
  | rdstatus => exact ⟨(Bool.and_true b).symm.trans hb, .status, rfl, full.symm.trans ha⟩
  | rdblklo => exact ⟨(Bool.and_true b).symm.trans hb, .blkcntLo, rfl, full.symm.trans ha⟩
  | rdblkhi => exact ⟨(Bool.and_true b).symm.trans hb, .blkcntHi, rfl, full.symm.trans ha⟩
  | rdfinfo => exact ⟨(Bool.and_true b).symm.trans hb, .faultInfo, rfl, full.symm.trans ha⟩

/-- R114: a read of a read-only register is a named transaction. -/
theorem exists_instr_of_read {r : Reg} (hr : r.readOnly = true) (d : Word) :
    ∃ i, decode (txnOf false r.offset d) = .instr i := by
  rw [decode_at_register]
  cases r with
  | ctrl | msg => cases hr
  | _ => exact ⟨_, rfl⟩

/-- R115: the row of WMSG selects by WE = 1 and by the offset of a message word. -/
theorem write_of_selects_wmsg {k : Fin 16} {e : Word} {b : Bool} {a : Offset} {d : Word}
    (h : (Instr.row (.wmsg k e)).selects (txnOf b a d) = true) : b = true ∧ ∃ j, a = msgOffset j := by
  rw [row_wmsg, selects_txnOf, Bool.and_true] at h
  exact ⟨h.1, (by decide : ∀ a : Offset, a &&& 0xc3 = 0x40 → ∃ k, a = msgOffset k) a h.2.1⟩

/-- R115: the row of a command selects its word alone. -/
theorem decode_of_selects_command {t : Txn} {i : Instr}
    (hi : i.row.mask = BitVec.allOnes 41 ∧ i.row.value = encode i) (h : i.row.selects t = true) :
    decode t = .instr i := by
  obtain ⟨hmask, hvalue⟩ := hi
  rw [selects_iff, hmask, hvalue, BitVec.and_allOnes] at h
  rw [h, decode_encode]

/-- R115: a word that matches a row is a named transaction. -/
theorem exists_instr_of_selects {t : Txn} {i : Instr} (h : i.row.selects t = true) : ∃ j, decode t = .instr j := by
  cases i with
  | nop | init | compress => exact ⟨_, decode_of_selects_command (by decide) h⟩
  | wmsg k e =>
    obtain ⟨b, a, d, rfl⟩ := exists_txnOf t
    obtain ⟨rfl, j, rfl⟩ := write_of_selects_wmsg h
    exact ⟨_, decode_encode (.wmsg j d)⟩
  | rdstatus | rdblklo | rdblkhi | rdfinfo | rdh =>
    obtain ⟨b, a, d, rfl⟩ := exists_txnOf t
    obtain ⟨rfl, r, hr, rfl⟩ := read_of_selects rfl h
    exact exists_instr_of_read hr d

/-- R110: bits of ADDR as bits of T. -/
theorem extractLsb'_addr (t : Txn) {k n : Nat} (h : k + n ≤ 8) : t.addr.extractLsb' k n = t.extractLsb' (32 + k) n := by
  apply BitVec.eq_of_getLsbD_eq
  intro i hi
  simp [Txn.addr, hi, show k + i < 8 by omega, Nat.add_assoc]

/-- R115: the index bits of the pattern of WMSG, and its DATA. -/
theorem operands_of_decode_wmsg {t : Txn} {k : Fin 16} {d : Word} (h : decode t = .instr (.wmsg k d)) :
    k.val = (t.extractLsb' 34 4).toNat ∧ d = t.extractLsb' 0 32 := by
  have hc := (decode_eq_instr_iff t _).1 h
  rw [Txn.canonical, decode_we h] at hc
  obtain ⟨-, ha, hd⟩ := txnOf_inj.1 hc
  have bits : t.extractLsb' 34 4 = t.addr.extractLsb' 2 4 := (extractLsb'_addr t (k := 2) (n := 4) (by decide)).symm
  rw [bits, ha]
  exact ⟨(by decide : ∀ k : Fin 16, k.val = ((msgOffset k).extractLsb' 2 4).toNat) k, hd.symm⟩

/-- R115: the index bits of the pattern of RDH. -/
theorem operand_of_decode_rdh {t : Txn} {k : Fin 8} (h : decode t = .instr (.rdh k)) :
    k.val = (t.extractLsb' 34 3).toNat := by
  have hc := (decode_eq_instr_iff t _).1 h
  obtain ⟨-, ha, -⟩ := txnOf_inj.1 hc
  have bits : t.extractLsb' 34 3 = t.addr.extractLsb' 2 3 := (extractLsb'_addr t (k := 2) (n := 3) (by decide)).symm
  rw [bits, ha]
  exact (by decide : ∀ k : Fin 8, k.val = ((digestOffset k).extractLsb' 2 3).toNat) k

/-- R115: two rows whose values differ in a bit that both masks look at. -/
theorem rows_disjoint {r q : OpcodeRow} (h : r.value &&& q.mask ≠ q.value &&& r.mask) (t : Txn) :
    ¬ (t &&& r.mask = r.value ∧ t &&& q.mask = q.value) := by
  rintro ⟨hr, hq⟩
  rw [← hr, ← hq, BitVec.and_assoc, BitVec.and_assoc, BitVec.and_comm r.mask] at h
  exact h rfl

/-- Settles O2: a word matches the row of what it decodes to, and every row selects named transactions only. -/
theorem namedExactlyWhenRowMatches : Obligations.NamedExactlyWhenRowMatches := by
  refine ⟨by decide, fun t => ?_, fun t i h => (selects_iff _ t).1 (selects_of_decode h),
    fun t k d => operands_of_decode_wmsg,
    fun t k => operand_of_decode_rdh, ?_⟩
  · constructor
    · rintro ⟨i, h⟩
      exact ⟨i.row, (mem_opcodeRows_iff _).2 ⟨i, rfl⟩, (selects_iff _ t).1 (selects_of_decode h)⟩
    · rintro ⟨r, hr, h⟩
      obtain ⟨i, rfl⟩ := (mem_opcodeRows_iff r).1 hr
      exact exists_instr_of_selects ((selects_iff _ t).2 h)
  · have distinct : opcodeRows.Pairwise fun r q => r.value &&& q.mask ≠ q.value &&& r.mask := by decide
    exact distinct.imp rows_disjoint

/-! The disassembler -/

/-- R119: the native line of a named transaction is in range and assembles to its word. -/
theorem assembleLine_nativeLine (i : Instr) :
    Machine.assembleLine (Machine.nativeLine i) = some [.txn (encode i)] := by
  cases i with
  | wmsg k d =>
    have hwf : (AsmLine.wmsg k d.toNat).wf = true := by
      simp only [AsmLine.wf, Bool.and_eq_true, decide_eq_true_eq]
      exact ⟨by omega, d.isLt⟩
    rw [Machine.nativeLine, Machine.assembleLine, if_pos hwf, Machine.expandLine, Fin.ofNat_val_eq_self,
      BitVec.ofNat_toNat, BitVec.setWidth_eq]
    rfl
  | rdh k =>
    have hwf : (AsmLine.rdh k).wf = true := by
      simp only [AsmLine.wf, decide_eq_true_eq]
      omega
    rw [Machine.nativeLine, Machine.assembleLine, if_pos hwf, Machine.expandLine, Fin.ofNat_val_eq_self]
    rfl
  | _ => rfl

/-- R120: the raw form of T is in range and assembles to T, a read's DATA taken as 0. -/
theorem assembleLine_rawLine (t : Txn) : Machine.assembleLine (Machine.rawLine t) = some [.txn t.canonical] := by
  have ha : t.addr.toNat ≤ 255 := by have := t.addr.isLt; omega
  have hd := t.data.isLt
  cases hw : t.we <;>
    simp [Machine.rawLine, Machine.assembleLine, AsmLine.wf, Machine.expandLine, Txn.canonical, hw, ha, hd]

/-- Settles O6: the line is the native one of a transaction whose word is T's, or T's raw form. -/
theorem assembleOfDisassemble : Obligations.AssembleOfDisassemble := by
  intro t
  rw [Machine.disassemble]
  cases hd : decode t with
  | instr i => rw [(decode_eq_instr_iff t i).1 hd]; exact assembleLine_nativeLine i
  | fault cause info => exact assembleLine_rawLine t

end Sys2Proof
end

section
/-! PROOFS. The fault classes of decode (30_encoding.md rules R114 and R116): the answer in each region of the window
(decode_cases), and the words written out from R115's patterns. -/

namespace Sys2Proof

/-- R114: FAULTINFO[8] = WE, FAULTINFO[7:0] = ADDR and FAULTINFO[31:9] = 0. -/
theorem accessInfo_toNat : ∀ (b : Bool) (a : Offset), (accessInfo b a).toNat = (if b then 256 else 0) + a.toNat := by
  decide

theorem aligned_iff : ∀ a : Offset, a.extractLsb' 0 2 = 0 ↔ a.toNat % 4 = 0 := by decide

theorem regAt_eq_none_iff : ∀ a : Offset, a.extractLsb' 0 2 = 0 →
    (regAt a = none ↔ a.toNat = 0x14 ∨ a.toNat = 0x18 ∨ a.toNat = 0x1C ∨ 0x80 ≤ a.toNat) := by decide

/-- R47: the offsets of the registers that only a read reaches. -/
def ReadOnlyAt (n : Nat) : Prop := n = 0x04 ∨ n = 0x08 ∨ n = 0x0C ∨ n = 0x10 ∨ 0x20 ≤ n ∧ n < 0x40

/-- R47: the offsets of the registers that only a write reaches, CTRL at 0 and the message words. -/
def WriteOnlyAt (n : Nat) : Prop := n = 0x00 ∨ 0x40 ≤ n ∧ n < 0x80

theorem readOnlyAt_offset {r : Reg} (hr : r.readOnly = true) : ReadOnlyAt r.offset.toNat := by
  unfold ReadOnlyAt
  cases r with
  | h i => revert i; decide
  | ctrl | msg => cases hr
  | _ => decide

theorem writeOnlyAt_offset {r : Reg} (hr : r.readOnly = false) : WriteOnlyAt r.offset.toNat := by
  unfold WriteOnlyAt
  cases r with
  | msg i => revert i; decide
  | ctrl => decide
  | _ => cases hr

/-- R114: an access in the direction that a register does not take. -/
theorem decode_wrong_direction {b : Bool} {r : Reg} (hr : r.readOnly = b) (d : Word) :
    decode (txnOf b r.offset d) = .fault .accessDirection (accessInfo b r.offset) := by
  subst hr
  rw [decode_at_register]
  cases r <;> rfl

theorem msgOffset_ne_zero : ∀ i, (msgOffset i).toNat ≠ 0 := by decide

/-- R114: everything decode can answer, by the region that ADDR falls in and by WE. -/
theorem decode_cases (b : Bool) (a : Offset) (d : Word) :
    (a.toNat % 4 ≠ 0 ∧ decode (txnOf b a d) = .fault .misaligned (accessInfo b a)) ∨
    (a.toNat % 4 = 0 ∧ (a.toNat = 0x14 ∨ a.toNat = 0x18 ∨ a.toNat = 0x1C ∨ 0x80 ≤ a.toNat) ∧
      decode (txnOf b a d) = .fault .unmapped (accessInfo b a)) ∨
    (a.toNat % 4 = 0 ∧ ReadOnlyAt a.toNat ∧
      ((b = true ∧ decode (txnOf b a d) = .fault .accessDirection (accessInfo b a)) ∨
       (b = false ∧ ∃ i, decode (txnOf b a d) = .instr i))) ∨
    (a.toNat % 4 = 0 ∧ WriteOnlyAt a.toNat ∧
      ((b = false ∧ decode (txnOf b a d) = .fault .accessDirection (accessInfo b a)) ∨
       (b = true ∧ a.toNat ≠ 0 ∧ ∃ i, decode (txnOf b a d) = .instr i) ∨
       (b = true ∧ a.toNat = 0 ∧ decode (txnOf b a d) = decodeCommand d))) := by
  obtain ha | ⟨ha, hnone⟩ | ⟨r, rfl⟩ := offset_cases a
  · exact .inl ⟨mt (aligned_iff a).2 ha, decode_at_misaligned b ha d⟩
  · exact .inr (.inl ⟨(aligned_iff a).1 ha, (regAt_eq_none_iff a ha).1 hnone, decode_at_unmapped b ha hnone d⟩)
  · have h4 := (aligned_iff _).1 (offset_aligned r)
    cases hr : r.readOnly with
    | true =>
      refine .inr (.inr (.inl ⟨h4, readOnlyAt_offset hr, ?_⟩))
      cases b with
      | true => exact .inl ⟨rfl, decode_wrong_direction hr d⟩
      | false => exact .inr ⟨rfl, exists_instr_of_read hr d⟩
    | false =>
      refine .inr (.inr (.inr ⟨h4, writeOnlyAt_offset hr, ?_⟩))
      cases b with
      | false => exact .inl ⟨rfl, decode_wrong_direction hr d⟩
      | true =>
        cases r with
        | ctrl => exact .inr (.inr ⟨rfl, rfl, decode_at_register true .ctrl d⟩)
        | msg i => exact .inr (.inl ⟨rfl, msgOffset_ne_zero i, _, decode_at_register true (.msg i) d⟩)
        | _ => cases hr

theorem decodeCommand_eq_illegal_iff (d info : Word) :
    decodeCommand d = .fault .illegalCommand info ↔ 3 ≤ d.toNat ∧ info = d := by
  obtain ⟨rfl, e⟩ | ⟨rfl, e⟩ | ⟨rfl, e⟩ | ⟨h, e⟩ := decodeCommand_cases d <;> rw [e]
  · simp
  · simp
  · simp
  · simp [h, eq_comm]

theorem decodeCommand_ne_fault (d : Word) {c : Cause} (hc : c ≠ .illegalCommand) (info : Word) :
    decodeCommand d ≠ .fault c info := by
  obtain ⟨-, e⟩ | ⟨-, e⟩ | ⟨-, e⟩ | ⟨-, e⟩ := decodeCommand_cases d <;> rw [e]
  · simp
  · simp
  · simp
  · simp [hc.symm]

/-- Settles O4: in each case of `decode_cases` the six clauses speak of one answer and one region. -/
theorem faultClassesOfDecode : Obligations.FaultClassesOfDecode := by
  intro t info
  obtain ⟨b, a, d, rfl⟩ := exists_txnOf t
  have access : info.toNat = (if b then 256 else 0) + a.toNat ↔ accessInfo b a = info := by
    rw [← accessInfo_toNat, BitVec.toNat_inj, eq_comm]
  simp only [txnOf_we, txnOf_addr, txnOf_data, access]
  rcases decode_cases b a d with ⟨h4, e⟩ | ⟨h4, hn, e⟩ | ⟨h4, hn, ⟨rfl, e⟩ | ⟨rfl, i, e⟩⟩ |
      ⟨h4, hn, ⟨rfl, e⟩ | ⟨rfl, h0, i, e⟩ | ⟨rfl, h0, e⟩⟩ <;> rw [e]
  · simp [h4]
    omega
  · simp [h4, hn]
    omega
  · unfold ReadOnlyAt at hn
    simp [h4, hn]
    omega
  · unfold ReadOnlyAt at hn
    simp [h4]
    omega
  · unfold WriteOnlyAt at hn
    simp [h4, hn]
    omega
  · unfold WriteOnlyAt at hn
    simp [h4]
    omega
  · simp [h0, decodeCommand_eq_illegal_iff, decodeCommand_ne_fault]

/-- Settles O5: thirteen closed words, each decoded. -/
theorem wordsDecodeAsTheTableSays : Obligations.WordsDecodeAsTheTableSays := by
  unfold Obligations.WordsDecodeAsTheTableSays
  decide

end Sys2Proof
end

section
/-! PROOFS. The polling loop of WAITIDLE (30_encoding.md rule R122) against the engine steps that a block in progress
still takes. -/

namespace Sys2Proof.Machine

/-! The engine steps that are left -/

/-- R250, R251: how many engine steps the block in progress still takes: the rounds left and the fold. -/
def stepsLeft (s : State) : Nat :=
  match s.phase with
  | .idle => 0
  | .run => 65 - s.rnd.toNat
  | .fold => 1

theorem stepsLeft_run {s : State} (hp : s.phase = .run) : stepsLeft s = 65 - s.rnd.toNat := by
  simp only [stepsLeft, hp]

theorem stepsLeft_fold {s : State} (hp : s.phase = .fold) : stepsLeft s = 1 := by
  simp only [stepsLeft, hp]

theorem stepsLeft_eq_zero_iff (s : State) : stepsLeft s = 0 ↔ s.phase = .idle := by
  have hr := s.rnd.isLt
  cases hp : s.phase with
  | idle => simp [stepsLeft, hp]
  | run => simp [stepsLeft, hp]; omega
  | fold => simp [stepsLeft, hp]

theorem busy_of_stepsLeft {s : State} {k : Nat} (h : stepsLeft s = k + 1) : s.busy = true :=
  (busy_true_iff s).2 (mt (stepsLeft_eq_zero_iff s).2 (by omega))

/-- R250, R251: each engine step of a busy engine is one of them. -/
theorem stepsLeft_engineStep {s : State} {k : Nat} (h : stepsLeft s = k + 1) : stepsLeft s.engineStep = k := by
  cases hp : s.phase with
  | idle => rw [(stepsLeft_eq_zero_iff s).2 hp] at h; omega
  | run =>
    rw [engineStep_run hp]
    rw [stepsLeft_run hp] at h
    by_cases hr : s.rnd = 63
    · rw [stepsLeft_fold (roundStep_last hr).1]
      rw [hr] at h
      exact Nat.succ.inj h
    · obtain ⟨hphase, hrnd⟩ := roundStep_next hr
      rw [stepsLeft_run hphase, hrnd]
      bv_omega
  | fold =>
    rw [engineStep_fold hp, (stepsLeft_eq_zero_iff _).2 (foldStep_phase s)]
    rw [stepsLeft_fold hp] at h
    omega

/-! Polls -/

/-- The host's turn when the port is free: it issues its next transaction, which is then on the port. -/
theorem hostTurn_issues {s : State} {t : Txn} {ops : List HostOp} (hp : s.pending = none)
    (hn : nextIssue s.responses s.program = (some t, ops)) :
    hostTurn s = hostTurn { s with pending := some t, program := ops } := by
  have hi : s.issueNext = { s with pending := some t, program := ops } := by
    simp [State.issueNext, hp, hn]
  rw [hostTurn, hostTurn, hi, issueNext_of_pending rfl]

/-- R122: the host's next transaction is a poll of WAITIDLE, which leaves it at the loop's foot before `rest`. -/
def PollsNext (s : State) (rest : List HostOp) : Prop :=
  s.booted = true ∧ s.pending = none ∧
  nextIssue s.responses s.program = (some (encode .rdstatus), .loopIfBusy :: rest)

/-- R238: the state after that poll, with the turn used up. -/
def State.polled (s : State) (turns : List Turn) (rest : List HostOp) : State :=
  State.respond (.okData s.status) { s with sched := turns, program := .loopIfBusy :: rest }

theorem step_poll {s : State} {rest : List HostOp} {turns : List Turn} (h : PollsNext s rest)
    (hs : s.sched = .host :: turns) : step s = .next (s.polled turns rest) := by
  obtain ⟨hb, hp, hn⟩ := h
  have hrd : isRdStatus (encode .rdstatus) = true := by decide
  rw [step_host hs hb, hostTurn_issues (by exact hp) (by exact hn),
    hostTurn_accepts rfl ((accepts_iff _ _).2 (.inr hrd)), hostAccept, decode_of_isRdStatus hrd]
  rfl

/-- R122: at the loop's foot the last answer decides. -/
theorem nextIssue_loopIfBusy (answers : List Resp) (v : Word) (rest : List HostOp) :
    nextIssue (answers ++ [.okData v]) (.loopIfBusy :: rest) =
      if v.getLsbD 0 then (some (encode .rdstatus), .loopIfBusy :: rest)
      else nextIssue (answers ++ [.okData v]) rest := by
  simp [nextIssue, lastBusyBit]

/-- R122: a poll that reads BUSY = 1 is followed by another. -/
theorem pollsNext_polled {s : State} {rest : List HostOp} (h : PollsNext s rest) (hz : s.busy = true)
    (turns : List Turn) : PollsNext (s.polled turns rest) rest := by
  refine ⟨h.1, rfl, ?_⟩
  have e := nextIssue_loopIfBusy s.responses s.status rest
  rwa [status_busy, hz, if_pos rfl] at e

/-- A poll that reads BUSY = 1, and the engine step after it. -/
theorem poll_then_engineStep {s : State} {rest : List HostOp} {turns : List Turn} {k : Nat} (h : PollsNext s rest)
    (hk : stepsLeft s = k + 1) (hs : s.sched = .host :: .engine :: turns) :
    ∃ t, (∀ n, runSteps (n + 2) s = runSteps n t) ∧ PollsNext t rest ∧ stepsLeft t = k ∧ t.sched = turns ∧
      t.responses = s.responses ++ [.okData s.status] := by
  have hz : s.busy = true := busy_of_stepsLeft hk
  have hengine := step_engine (s := s.polled (.engine :: turns) rest) rfl h.1 hz
  refine ⟨_, fun n => by rw [runSteps_next (step_poll h hs), runSteps_next hengine], ?_, ?_, ?_, ?_⟩
  · simpa [PollsNext] using pollsNext_polled h hz (.engine :: turns)
  · exact stepsLeft_engineStep hk
  · exact engineStep_sched _
  · exact engineStep_responses _

/-- R122: with k engine steps left, k polls that read BUSY = 1, each with an engine step after it, and one more poll,
which reads BUSY = 0. -/
theorem runSteps_polls {rest : List HostOp} : ∀ {k : Nat} {s : State}, PollsNext s rest → stepsLeft s = k →
    s.sched = (List.replicate k [Turn.host, Turn.engine]).flatten ++ [.host] →
    ∃ (u : State) (polls : List Word), runSteps (2 * k + 1) s = .next u ∧ u.phase = .idle ∧ u.pending = none ∧
      u.program = .loopIfBusy :: rest ∧ polls.length = k ∧ (∀ v ∈ polls, v.getLsbD 0 = true) ∧
      u.responses = s.responses ++ polls.map .okData ++ [.okData u.status]
  | 0, s, h, hk, hs => by
    refine ⟨s.polled [] rest, [], ?_, (stepsLeft_eq_zero_iff s).1 hk, rfl, rfl, rfl, by simp, ?_⟩
    · rw [runSteps_next (step_poll h hs), runSteps_zero]
    · rw [List.map_nil, List.append_nil]
      rfl
  | k + 1, s, h, hk, hs => by
    obtain ⟨t, hrun, hnext, hleft, hsched, hresp⟩ := poll_then_engineStep h hk hs
    obtain ⟨u, polls, hru, hidle, hpend, hprog, hlen, hbusy, hresp'⟩ :=
      runSteps_polls hnext hleft hsched
    refine ⟨u, s.status :: polls, (hrun _).trans hru, hidle, hpend, hprog, by rw [List.length_cons, hlen], ?_, ?_⟩
    · intro v hv
      rcases List.mem_cons.1 hv with rfl | hv
      · rw [status_busy, busy_of_stepsLeft hk]
      · exact hbusy v hv
    · rw [hresp', hresp]
      simp

/-- Settles O48: from RUN with RND = j, 65 - j engine steps are left. -/
theorem waitIdlePollsUntilIdle : Obligations.WaitIdlePollsUntilIdle := by
  intro s rest hb hrun hp hprog hs
  have hnext : PollsNext s rest := ⟨hb, hp, by rw [hprog, nextIssue]⟩
  obtain ⟨u, polls, hru, hidle, hpend, hfoot, hlen, hbusy, hresp⟩ := runSteps_polls hnext (stepsLeft_run hrun) hs
  have hlast : u.status.getLsbD 0 = false := by rw [status_busy, (busy_false_iff u).2 hidle]
  refine ⟨u, polls, hru, hidle, hpend, hlen, hbusy, hresp, hlast, ?_⟩
  rw [hfoot, hresp, nextIssue_loopIfBusy, hlast]
  rfl

end Sys2Proof.Machine
end

section
/-! PROOFS. The block in progress (41_compression.md rules R186 to R193): what each engine step keeps of it, and the
digest its fold leaves. -/

namespace Sys2Proof.Machine

/-- R188, R191: the engine has done its rounds so far on the block `m`, from the digest state that H still holds. -/
def OnBlock (m : MsgWords) (s : State) : Prop :=
  (∀ k : Fin 64, k.val < wordsKnown s → s.w[k] = (sched m)[k]) ∧
  s.wr = roundsUpTo (sched m) (WorkRegs.ofDigest s.h) (roundsDone s)

theorem OnBlock.congr {m : MsgWords} {s t : State} (h : OnBlock m s) (e : SameEngine s t) : OnBlock m t := by
  obtain ⟨hh, hwr, -, -, hw, hphase, hrnd, -⟩ := e
  simpa only [OnBlock, wordsKnown, roundsDone, hh, hwr, hw, hphase, hrnd] using h

/-- R236: COMPRESS puts the engine on the block that MSG holds. -/
theorem onBlock_startBlock (s : State) : OnBlock s.msg s.startBlock := by
  refine ⟨fun k hk => ?_, rfl⟩
  have hk16 : k.val < 16 := hk
  have hload := getElem_loadSchedule s.msg s.w k.val k.isLt
  rw [dif_pos hk16] at hload
  exact hload.trans (wAt_sched_low s.msg (k := BitVec.ofFin k) hk16).symm

/-- R187: the finished schedule is what its own expansion leaves. -/
theorem expandSchedule_sched (m : MsgWords) (j : BitVec 6) : expandSchedule (sched m) j = sched m := by
  unfold expandSchedule
  split
  case isTrue hj =>
    rw [← wAt_sched_high m hj, wAt_eq]
    exact Vector.set_getElem_self _
  case isFalse => rfl

theorem roundsUpTo_succ_toNat (w : Schedule) (r : WorkRegs) (j : BitVec 6) :
    roundsUpTo w r (j.toNat + 1) = applyRound j (roundsUpTo w r j.toNat) (wAt w j) := by
  rw [roundsUpTo, BitVec.ofNat_toNat, BitVec.setWidth_eq]

theorem OnBlock.roundStep {m : MsgWords} {s : State} (h : OnBlock m s) (hp : s.phase = .run) :
    OnBlock m s.roundStep := by
  obtain ⟨hw, hwr⟩ := h
  have hdone : roundsDone s = s.rnd.toNat := by simp only [roundsDone, hp]
  have hknown : ∀ k : BitVec 6, k.toNat < max 16 s.rnd.toNat → wAt s.w k = wAt (sched m) k :=
    fun k hk => hw k.toFin (by rw [wordsKnown, hdone]; exact hk)
  have hexpand : ∀ k : BitVec 6, k.toNat < max 16 (s.rnd.toNat + 1) →
      wAt (expandSchedule s.w s.rnd) k = wAt (sched m) k := fun k hk => by
    rw [wAt_expandSchedule_congr hknown hk, expandSchedule_sched]
  refine ⟨fun k hk => hexpand (BitVec.ofFin k) ?_, ?_⟩
  · rwa [wordsKnown, roundsDone_roundStep] at hk
  · rw [roundsDone_roundStep, roundStep_h, roundStep_wr, roundsUpTo_succ_toNat, hexpand s.rnd (by omega), hwr, hdone]

/-- R192, R193: the fold leaves C(H, m) in H. -/
theorem OnBlock.h_after_fold {m : MsgWords} {s : State} (h : OnBlock m s) (hp : s.phase = .fold) :
    s.foldStep.h = compressBlock s.h m := by
  have hdone : roundsDone s = 64 := by simp only [roundsDone, hp]
  rw [foldStep_h, h.2, hdone, compressBlock]

end Sys2Proof.Machine
end

section
/-! PROOFS. A host program of transactions, run under any schedule without reset (42_host_interface.md rules R230 to
R233): the engine's next step is taken while it is busy, and the host's next transaction is accepted while it is idle
(R341). -/

namespace Sys2Proof.Machine

/-! Runs of any length -/

/-- Some number of steps leads from s to t. -/
def Reaches (s t : State) : Prop := ∃ n, runSteps n s = .next t

theorem Reaches.refl (s : State) : Reaches s s := ⟨0, rfl⟩

theorem Reaches.of_step {s t : State} (h : step s = .next t) : Reaches s t := ⟨1, runSteps_next h⟩

theorem runSteps_add (n : Nat) {t : State} : ∀ {m : Nat} {s : State}, runSteps m s = .next t →
    runSteps (m + n) s = runSteps n t
  | 0, s, h => by
    cases h
    rw [Nat.zero_add]
  | m + 1, s, h => by
    rw [runSteps] at h
    split at h
    case h_1 u hu => rw [Nat.add_right_comm, runSteps_next hu, runSteps_add n h]
    case h_2 => cases h
    case h_3 => cases h

theorem Reaches.trans {s t u : State} (h : Reaches s t) (h' : Reaches t u) : Reaches s u := by
  obtain ⟨m, hm⟩ := h
  obtain ⟨n, hn⟩ := h'
  exact ⟨m + n, (runSteps_add n hm).trans hn⟩

/-! The host's side of the state -/

/-- A part of a host's program that holds no WAITIDLE and no RDSTATUS, so that a busy engine holds all of it (R231). -/
def Quiet (ops : List HostOp) : Prop := ∀ op ∈ ops, ∃ t, op = .txn t ∧ isRdStatus t = false

/-- What the host has still to get answered: the transaction on the port and the rest of its program. -/
def State.todo (s : State) : List HostOp := s.pending.toList.map .txn ++ s.program

/-- The host works through `ops`, with the answers so far, no fault recorded and no reset to come. -/
structure Serving (s : State) (answers : List Resp) (ops : List HostOp) : Prop where
  booted : s.booted = true
  noReset : s.noReset
  quiet : Quiet ops
  unfaulted : s.fault = false
  answers : s.responses = answers
  todo : s.todo = ops

theorem todo_of_free {s : State} (h : s.pending = none) : s.todo = s.program := by
  simp [State.todo, h]

theorem todo_of_pending {s : State} {t : Txn} (h : s.pending = some t) : s.todo = .txn t :: s.program := by
  simp [State.todo, h]

/-- R230: issuing moves the head of what the host has to do to the port. -/
theorem issueNext_of_free {s : State} {t : Txn} {rest : List HostOp} (hp : s.pending = none)
    (hprog : s.program = .txn t :: rest) : s.issueNext = { s with pending := some t, program := rest } := by
  simp [State.issueNext, hp, hprog, nextIssue]

theorem issueNext_pending_of_todo {s : State} {t : Txn} {rest : List HostOp} (h : s.todo = .txn t :: rest) :
    s.issueNext.pending = some t := by
  cases hp : s.pending with
  | none => rw [issueNext_of_free hp ((todo_of_free hp).symm.trans h)]
  | some u =>
    rw [todo_of_pending hp] at h
    cases h
    exact issueNext_pending_of_pending hp

theorem todo_issueNext {s : State} (hq : Quiet s.todo) : s.issueNext.todo = s.todo := by
  cases hp : s.pending with
  | some t => rw [issueNext_of_pending hp]
  | none =>
    cases hprog : s.program with
    | nil => simp [State.todo, State.issueNext, hp, hprog, nextIssue]
    | cons op rest =>
      rw [todo_of_free hp, hprog] at hq ⊢
      obtain ⟨t, rfl, -⟩ := hq op List.mem_cons_self
      rw [issueNext_of_free hp hprog]
      rfl

theorem pending_of_canIssue {s : State} (h : s.canIssue = true) : s.pending = none ∧ s.issueNext.pending ≠ none := by
  obtain ⟨hp, hn⟩ : s.pending.isNone = true ∧ (nextIssue s.responses s.program).1.isSome = true := by
    simpa only [State.canIssue, Bool.and_eq_true] using h
  have hp := Option.isNone_iff_eq_none.1 hp
  refine ⟨hp, Option.isSome_iff_ne_none.1 ?_⟩
  simpa only [State.issueNext, hp] using hn

theorem sameEngine_issueNext (s : State) : SameEngine s s.issueNext := by simp [SameEngine]

theorem sameEngine_takeTurn (s : State) : SameEngine s s.takeTurn.2 := by simp [SameEngine]

theorem SameEngine.trans {s t u : State} (h : SameEngine s t) (h' : SameEngine t u) : SameEngine s u := by
  simp_all [SameEngine]

theorem SameEngine.phase_eq {s t : State} (h : SameEngine s t) : t.phase = s.phase := by
  obtain ⟨-, -, -, -, -, hphase, -⟩ := h
  exact hphase.symm

theorem SameEngine.busy_eq {s t : State} (h : SameEngine s t) : t.busy = s.busy := by
  rw [State.busy, State.busy, h.phase_eq]

section
variable {s : State} {answers : List Resp} {ops : List HostOp}

theorem Serving.issueNext (h : Serving s answers ops) : Serving s.issueNext answers ops := by
  obtain ⟨hb, hn, hq, hf, ha, ht⟩ := h
  exact ⟨(issueNext_booted s).trans hb, by rwa [State.noReset, issueNext_sched], hq, (issueNext_fault s).trans hf,
    (issueNext_responses s).trans ha, (todo_issueNext (ht ▸ hq)).trans ht⟩

theorem takeTurn_noReset (h : s.noReset) : s.takeTurn.2.noReset ∧ s.takeTurn.1 ≠ .reset := by
  unfold State.takeTurn
  split
  case h_1 turn rest hs =>
    exact ⟨fun t ht => h t (hs ▸ List.mem_cons_of_mem turn ht), h turn (hs ▸ List.mem_cons_self)⟩
  case h_2 hs =>
    split
    · refine ⟨h, ?_⟩
      dsimp only
      split <;> simp
    · exact ⟨h, by simp⟩

theorem Serving.takeTurn (h : Serving s answers ops) : Serving s.takeTurn.2 answers ops := by
  obtain ⟨hb, hn, hq, hf, ha, ht⟩ := h
  exact ⟨(takeTurn_booted s).trans hb, (takeTurn_noReset hn).1, hq, (takeTurn_fault s).trans hf,
    (takeTurn_responses s).trans ha, by rwa [State.todo, takeTurn_pending, takeTurn_program]⟩

theorem Serving.engineStep (h : Serving s answers ops) : Serving s.engineStep answers ops := by
  obtain ⟨hb, hn, hq, hf, ha, ht⟩ := h
  exact ⟨(engineStep_booted s).trans hb, by rwa [State.noReset, engineStep_sched], hq, (engineStep_fault s).trans hf,
    (engineStep_responses s).trans ha, by rwa [State.todo, engineStep_pending, engineStep_program]⟩

/-- R231: a busy engine holds what the host offers. -/
theorem Serving.hostTurn_busy (h : Serving s answers ops) (hz : s.busy = true) :
    hostTurn s = .next s.issueNext.engineStep := by
  rcases hostTurn_cases s with ⟨T, hT, hacc, -⟩ | e
  · have hmem : HostOp.txn T ∈ ops := by
      rw [← h.issueNext.todo, todo_of_pending hT]
      exact List.mem_cons_self
    obtain ⟨t, ht, hrd⟩ := h.quiet _ hmem
    cases ht
    rw [State.accepts, (sameEngine_issueNext s).busy_eq, hz, hrd] at hacc
    cases hacc
  · exact e

/-- R232: an idle engine accepts what the host offers. -/
theorem Serving.hostTurn_idle {t : Txn} {rest : List HostOp} (h : Serving s answers (.txn t :: rest))
    (hi : s.phase = .idle) : hostTurn s = hostAccept t s.issueNext := by
  have hp := issueNext_pending_of_todo h.todo
  have hacc : s.issueNext.accepts t = true := (accepts_iff _ _).2 (.inl ((issueNext_phase s).trans hi))
  rw [hostTurn, hp]
  exact (if_pos hacc).trans (if_pos hacc)

/-! One step, whoever's turn it is -/

/-- R233: a step of a busy engine is its next step, or the host only issues. -/
theorem Serving.step_busy (h : Serving s answers ops) (hz : s.busy = true) :
    ∃ s', SameEngine s s' ∧ Serving s' answers ops ∧
      (step s = .next s'.engineStep ∨ s.pending = none ∧ s'.pending ≠ none ∧ step s = .next s') := by
  have hturn := h.takeTurn
  have heng := sameEngine_takeTurn s
  have hissue := heng.trans (sameEngine_issueNext _)
  have hz' := heng.busy_eq.trans hz
  have hhost := hturn.hostTurn_busy hz'
  unfold step
  cases hT : s.takeTurn.1 with
  | reset => exact absurd hT (takeTurn_noReset h.noReset).2
  | host => exact ⟨_, hissue, hturn.issueNext, .inl ((if_pos hturn.booted).trans hhost)⟩
  | engine => exact ⟨_, heng, hturn, .inl ((if_pos hturn.booted).trans (if_pos hz'))⟩
  | issue =>
    refine ⟨_, hissue, hturn.issueNext, ?_⟩
    rw [runTurn, if_pos hturn.booted, issueTurn]
    split
    case isTrue hc =>
      obtain ⟨hfree, hsome⟩ := pending_of_canIssue hc
      exact .inr ⟨(takeTurn_pending s).symm.trans hfree, hsome, rfl⟩
    case isFalse => exact .inl hhost

/-- R233: a step of an idle engine accepts the host's next transaction, or the host only issues it. -/
theorem Serving.step_idle {t : Txn} {rest : List HostOp} (h : Serving s answers (.txn t :: rest))
    (hi : s.phase = .idle) :
    ∃ s', SameEngine s s' ∧ Serving s' answers (.txn t :: rest) ∧ s'.pending = some t ∧
      (step s = hostAccept t s' ∨ s.pending = none ∧ step s = .next s') := by
  have hturn := h.takeTurn
  have hi' : s.takeTurn.2.phase = .idle := (takeTurn_phase s).trans hi
  have hhost := hturn.hostTurn_idle hi'
  refine ⟨s.takeTurn.2.issueNext, (sameEngine_takeTurn s).trans (sameEngine_issueNext _), hturn.issueNext,
    issueNext_pending_of_todo hturn.todo, ?_⟩
  unfold step
  cases hT : s.takeTurn.1 with
  | reset => exact absurd hT (takeTurn_noReset h.noReset).2
  | host => exact .inl ((if_pos hturn.booted).trans hhost)
  | engine =>
    rw [runTurn, if_pos hturn.booted, engineTurn, (busy_false_iff _).2 hi']
    exact .inl hhost
  | issue =>
    rw [runTurn, if_pos hturn.booted, issueTurn]
    split
    case isTrue hc => exact .inr ⟨(takeTurn_pending s).symm.trans (pending_of_canIssue hc).1, rfl⟩
    case isFalse => exact .inl hhost

/-- R341: a busy engine's next step is taken. -/
theorem Serving.reaches_engineStep (h : Serving s answers ops) (hz : s.busy = true) :
    ∃ s', SameEngine s s' ∧ Serving s' answers ops ∧ Reaches s s'.engineStep := by
  obtain ⟨s', heng, hs', hstep | ⟨-, hport, hstep⟩⟩ := h.step_busy hz
  · exact ⟨s', heng, hs', .of_step hstep⟩
  · obtain ⟨s'', heng', hs'', hstep' | ⟨hfree, -⟩⟩ := hs'.step_busy (heng.busy_eq.trans hz)
    · exact ⟨s'', heng.trans heng', hs'', (Reaches.of_step hstep).trans (.of_step hstep')⟩
    · exact absurd hfree hport

/-- R232: an idle engine's next transaction is accepted. -/
theorem Serving.reaches_exec {i : Instr} {rest : List HostOp} (h : Serving s answers (HostOp.ofInstr i :: rest))
    (hi : s.phase = .idle) :
    ∃ s', SameEngine s s' ∧ Serving s' answers (HostOp.ofInstr i :: rest) ∧ s'.program = rest ∧
      ∀ u, exec i s' = .next u → Reaches s u := by
  have accepted : ∀ s', hostAccept (encode i) s' = exec i s' := fun s' => by rw [hostAccept, decode_encode]
  have program_eq : ∀ s', Serving s' answers (HostOp.ofInstr i :: rest) → s'.pending = some (encode i) →
      s'.program = rest := fun s' hs' hp => (List.cons.inj ((todo_of_pending hp).symm.trans hs'.todo)).2
  obtain ⟨s', heng, hs', hp, hstep | ⟨-, hstep⟩⟩ := h.step_idle hi
  · exact ⟨s', heng, hs', program_eq s' hs' hp, fun u hu => .of_step (hstep.trans ((accepted s').trans hu))⟩
  · obtain ⟨s'', heng', hs'', hp', hstep' | ⟨hfree, -⟩⟩ := hs'.step_idle (heng.phase_eq.trans hi)
    · exact ⟨s'', heng.trans heng', hs'', program_eq s'' hs'' hp', fun u hu =>
        (Reaches.of_step hstep).trans (.of_step (hstep'.trans ((accepted s'').trans hu)))⟩
    · cases hp.symm.trans hfree

/-! The transactions of a host program -/

/-- Serving with the engine idle: its digest state and its block count. -/
structure AtRest (s : State) (answers : List Resp) (ops : List HostOp) (digest : Digest) (count : BitVec 64) : Prop
    extends Serving s answers ops where
  idle : s.phase = .idle
  digest_eq : s.h = digest
  count_eq : s.blkcnt = count

/-- An effect that leaves the host's side and the fault flag alone. -/
def SameHost (s e : State) : Prop :=
  e.booted = s.booted ∧ e.sched = s.sched ∧ e.fault = s.fault ∧ e.responses = s.responses ∧ e.program = s.program

theorem sameHost_refl (s : State) : SameHost s s := ⟨rfl, rfl, rfl, rfl, rfl⟩

theorem sameHost_initDigest (s : State) : SameHost s s.initDigest := ⟨rfl, rfl, rfl, rfl, rfl⟩

theorem sameHost_writeMsg (s : State) (k : Fin 16) (d : Word) : SameHost s (s.writeMsg k d) :=
  ⟨rfl, rfl, rfl, rfl, rfl⟩

theorem sameHost_startBlock (s : State) : SameHost s s.startBlock := by
  simp [SameHost]

theorem Serving.respond {op : HostOp} {e : State} (h : Serving s answers (op :: ops)) (hprog : s.program = ops)
    (he : SameHost s e) (r : Resp) : Serving (e.respond r) (answers ++ [r]) ops := by
  obtain ⟨hb, hn, hq, hf, ha, -⟩ := h
  obtain ⟨eb, es, ef, er, ep⟩ := he
  refine ⟨eb.trans hb, ?_, fun o ho => hq o (List.mem_cons_of_mem op ho), ef.trans hf, ?_, ?_⟩
  · rwa [State.noReset, respond_sched, es]
  · rw [respond_responses, er, ha]
  · rw [todo_of_free (respond_pending r e), respond_program, ep, hprog]

end

section
variable {s : State} {answers : List Resp} {ops : List HostOp} {digest : Digest} {count : BitVec 64}

theorem AtRest.congr {s' : State} (h : AtRest s answers ops digest count) (e : SameEngine s s')
    (hs' : Serving s' answers ops) : AtRest s' answers ops digest count := by
  have hidle := e.phase_eq.trans h.idle
  obtain ⟨hh, -, -, -, -, -, -, -, -, hcount, -⟩ := e
  exact ⟨hs', hidle, hh.symm.trans h.digest_eq, hcount.symm.trans h.count_eq⟩

/-- R235: INIT. -/
theorem AtRest.reaches_init (h : AtRest s answers (HostOp.ofInstr .init :: ops) digest count) :
    ∃ u, Reaches s u ∧ AtRest u (answers ++ [.ok]) ops iv 0 := by
  obtain ⟨s', heng, hs', hprog, hreach⟩ := h.reaches_exec h.idle
  have h' := h.congr heng hs'
  refine ⟨s'.initDigest.respond .ok, hreach _ ?_,
    ⟨hs'.respond hprog (sameHost_initDigest s') .ok, h'.idle, rfl, rfl⟩⟩
  rw [exec, execInit, acceptWrite_go _ h'.idle h'.unfaulted]

/-- R237: WMSG. -/
theorem AtRest.reaches_wmsg {k : Fin 16} {d : Word}
    (h : AtRest s answers (HostOp.ofInstr (.wmsg k d) :: ops) digest count) :
    ∃ u, Reaches s u ∧ AtRest u (answers ++ [.ok]) ops digest count ∧ u.msg = setMsg s.msg k d ∧
      u.msgValid = setValid s.msgValid k := by
  obtain ⟨s', heng, hs', hprog, hreach⟩ := h.reaches_exec h.idle
  have h' := h.congr heng hs'
  obtain ⟨-, -, hmsg, hvalid, -⟩ := heng
  refine ⟨(s'.writeMsg k d).respond .ok, hreach _ ?_,
    ⟨hs'.respond hprog (sameHost_writeMsg s' k d) .ok, h'.idle, h'.digest_eq, h'.count_eq⟩, ?_, ?_⟩
  · rw [exec, execWmsg, acceptWrite_go _ h'.idle h'.unfaulted]
  · rw [hmsg]; rfl
  · rw [hvalid]; rfl

/-- R242: RDH. -/
theorem AtRest.reaches_rdh {k : Fin 8} (h : AtRest s answers (HostOp.ofInstr (.rdh k) :: ops) digest count) :
    ∃ u, Reaches s u ∧ AtRest u (answers ++ [.okData digest[k]]) ops digest count := by
  obtain ⟨s', heng, hs', hprog, hreach⟩ := h.reaches_exec h.idle
  have h' := h.congr heng hs'
  refine ⟨s'.respond (.okData digest[k]), hreach _ ?_,
    ⟨hs'.respond hprog (sameHost_refl s') _, h'.idle, h'.digest_eq, h'.count_eq⟩⟩
  rw [exec, execRdh, acceptRead_idle _ h'.idle, State.digestWord, h'.digest_eq]

theorem SameEngine.stepsLeft_eq {s t : State} (h : SameEngine s t) : stepsLeft t = stepsLeft s := by
  obtain ⟨-, -, -, -, -, hphase, hrnd, -⟩ := h
  simp only [stepsLeft, hphase, hrnd]

/-- R250: a round leaves the engine busy. -/
theorem busy_roundStep (s : State) : s.roundStep.busy = true := by
  rw [busy_true_iff, roundStep_phase]
  split <;> simp

/-- R250, R251, R341: a block in progress ends, in IDLE and with its digest in H. -/
theorem Serving.reaches_idle {m : MsgWords} {k : Nat} (hk : stepsLeft s = k) (hz : s.busy = true)
    (h : Serving s answers ops) (hm : OnBlock m s) :
    ∃ u, Reaches s u ∧ AtRest u answers ops (compressBlock s.h m) (s.blkcnt + 1) := by
  induction k generalizing s with
  | zero => exact absurd ((stepsLeft_eq_zero_iff s).1 hk) ((busy_true_iff s).1 hz)
  | succ k ih =>
    obtain ⟨s', heng, hs', hreach⟩ := h.reaches_engineStep hz
    have hm' := hm.congr heng
    have hz' := heng.busy_eq.trans hz
    have hleft := stepsLeft_engineStep (heng.stepsLeft_eq.trans hk)
    have hserving := hs'.engineStep
    obtain ⟨hh, -, -, -, -, -, -, -, -, hcount, -⟩ := heng
    rw [hh, hcount]
    cases hp : s'.phase with
    | idle => exact absurd hp ((busy_true_iff s').1 hz')
    | run =>
      rw [engineStep_run hp] at hreach hleft hserving
      obtain ⟨u, hu, hrest⟩ := ih hleft (busy_roundStep s') hserving (hm'.roundStep hp)
      exact ⟨u, hreach.trans hu, hrest⟩
    | fold =>
      rw [engineStep_fold hp] at hreach hserving
      exact ⟨_, hreach, ⟨hserving, rfl, hm'.h_after_fold hp, rfl⟩⟩

/-- R236, R253: COMPRESS of a complete block, and the engine's work on it. -/
theorem AtRest.reaches_compress (h : AtRest s answers (HostOp.ofInstr .compress :: ops) digest count)
    (hv : s.msgValid = 0xFFFF) :
    ∃ u, Reaches s u ∧ AtRest u (answers ++ [.ok]) ops (compressBlock digest s.msg) (count + 1) := by
  obtain ⟨s', heng, hs', hprog, hreach⟩ := h.reaches_exec h.idle
  have h' := h.congr heng hs'
  obtain ⟨-, -, hmsg, hvalid, -⟩ := heng
  have hexec := exec_compress_complete h'.idle h'.unfaulted (hvalid ▸ hv)
  obtain ⟨u, hu, hrest⟩ := (hs'.respond hprog (sameHost_startBlock s') .ok).reaches_idle rfl rfl (onBlock_startBlock s')
  refine ⟨u, (hreach _ hexec).trans hu, ?_⟩
  simpa only [respond_h, startBlock_h, respond_blkcnt, startBlock_blkcnt, h'.digest_eq, h'.count_eq, hmsg] using hrest

end

end Sys2Proof.Machine
end

section
/-! PROOFS. The host program HASH (30_encoding.md rules R121 to R124): the block loop against the chaining of
41_compression.md rule R194. -/

namespace Sys2Proof.Machine

section
variable {ops : List HostOp} {digest : Digest} {count : BitVec 64}

/-! LDBLK -/

/-- R237: message word k is written with the word that `m` has there. -/
def Loaded (m : MsgWords) (s : State) (k : Fin 16) : Prop := s.msg[k] = m[k] ∧ s.msgValid.getLsbD k = true

theorem loaded_of_wmsg {m : MsgWords} {s u : State} {i : Fin 16} (hmsg : u.msg = setMsg s.msg i m[i])
    (hvalid : u.msgValid = setValid s.msgValid i) {k : Fin 16} (h : k = i ∨ Loaded m s k) : Loaded m u k := by
  rw [Loaded, hmsg, hvalid, getElem_setMsg, getLsbD_setValid]
  by_cases hk : k = i
  · simp [hk]
  · simpa [hk, Loaded] using h

/-- R121: the writes of a list of message words. -/
theorem AtRest.reaches_loaded {m : MsgWords} {is : List (Fin 16)} {s : State} {answers : List Resp}
    (h : AtRest s answers (is.map (fun i => HostOp.ofInstr (.wmsg i m[i])) ++ ops) digest count) :
    ∃ u, Reaches s u ∧ AtRest u (answers ++ List.replicate is.length .ok) ops digest count ∧
      ∀ k, k ∈ is ∨ Loaded m s k → Loaded m u k := by
  induction is generalizing s answers with
  | nil => exact ⟨s, .refl s, by simpa using h, by simp⟩
  | cons i is ih =>
    obtain ⟨t, ht, hrest, hmsg, hvalid⟩ := AtRest.reaches_wmsg h
    obtain ⟨u, hu, hrest', hloaded⟩ := ih hrest
    refine ⟨u, ht.trans hu, by simpa [List.replicate_succ] using hrest', fun k hk => hloaded k ?_⟩
    rw [List.mem_cons, or_comm (a := k = i), or_assoc] at hk
    exact hk.imp_right (loaded_of_wmsg hmsg hvalid)

theorem msg_eq_of_loaded {m : MsgWords} {s : State} (h : ∀ k, Loaded m s k) : s.msg = m ∧ s.msgValid = 0xFFFF := by
  constructor
  · ext k hk : 1
    exact (h ⟨k, hk⟩).1
  · apply BitVec.eq_of_getLsbD_eq
    intro k hk
    rw [(h ⟨k, hk⟩).2]
    exact ((by decide : ∀ i : Fin 16, (0xFFFF : BitVec 16).getLsbD i = true) ⟨k, hk⟩).symm

/-! The blocks and the digest -/

/-- R124: LDBLK and COMPRESS of one block. -/
theorem AtRest.reaches_block {b : Block} {s : State} {answers : List Resp}
    (h : AtRest s answers (loadBlockOps b ++ HostOp.ofInstr .compress :: ops) digest count) :
    ∃ u, Reaches s u ∧
      AtRest u (answers ++ List.replicate 17 .ok) ops (compressBlock digest (blockWords b)) (count + 1) := by
  obtain ⟨t, ht, hrest, hloaded⟩ := AtRest.reaches_loaded h
  obtain ⟨hmsg, hvalid⟩ := msg_eq_of_loaded fun k => hloaded k (.inl (List.mem_finRange k))
  obtain ⟨u, hu, hrest'⟩ := hrest.reaches_compress hvalid
  refine ⟨u, ht.trans hu, ?_⟩
  rwa [hmsg, List.length_finRange, List.append_assoc, ← List.replicate_succ'] at hrest'

/-- R124, R194: the block loop chains the blocks. -/
theorem AtRest.reaches_chain {blocks : List Block} {s : State} {answers : List Resp} {digest : Digest}
    {count : BitVec 64}
    (h : AtRest s answers (blocks.flatMap (fun b => loadBlockOps b ++ [HostOp.ofInstr .compress]) ++ ops) digest
      count) :
    ∃ u, Reaches s u ∧
      AtRest u (answers ++ List.replicate (17 * blocks.length) .ok) ops (chain digest (blocks.map blockWords))
        (count + BitVec.ofNat 64 blocks.length) := by
  induction blocks generalizing s answers digest count with
  | nil => exact ⟨s, .refl s, by simpa [chain] using h⟩
  | cons b blocks ih =>
    obtain ⟨t, ht, hrest⟩ := AtRest.reaches_block (b := b) (by simpa using h)
    obtain ⟨u, hu, hrest'⟩ := ih hrest
    refine ⟨u, ht.trans hu, ?_⟩
    have hlen : count + 1 + BitVec.ofNat 64 blocks.length = count + BitVec.ofNat 64 (b :: blocks).length := by
      rw [List.length_cons]
      bv_omega
    rw [hlen, List.append_assoc, ← List.replicate_add, Nat.add_comm 17] at hrest'
    exact hrest'

/-- R123: the reads of a list of digest words. -/
theorem AtRest.reaches_reads {is : List (Fin 8)} {s : State} {answers : List Resp}
    (h : AtRest s answers (is.map (fun i => HostOp.ofInstr (.rdh i)) ++ ops) digest count) :
    ∃ u, Reaches s u ∧ AtRest u (answers ++ is.map fun i => .okData digest[i]) ops digest count := by
  induction is generalizing s answers with
  | nil => exact ⟨s, .refl s, by simpa using h⟩
  | cons i is ih =>
    obtain ⟨t, ht, hrest⟩ := AtRest.reaches_rdh h
    obtain ⟨u, hu, hrest'⟩ := ih hrest
    exact ⟨u, ht.trans hu, by simpa using hrest'⟩

end

/-! HASH -/

theorem isRdStatus_encode {i : Instr} (hi : i ≠ .rdstatus) : isRdStatus (encode i) = false := by
  cases h : isRdStatus (encode i) with
  | false => rfl
  | true => exact absurd (Decoded.instr.inj ((decode_encode i).symm.trans (decode_of_isRdStatus h))) hi

/-- R124: HASH polls nothing. -/
theorem quiet_hashOps (m : List Byte) : Quiet (hashOps m) := by
  intro op hop
  have hnamed : ∃ i, op = HostOp.ofInstr i ∧ i ≠ .rdstatus := by
    simp only [hashOps, loadBlockOps, readDigestOps, List.mem_cons, List.mem_append, List.mem_flatMap, List.mem_map,
      List.not_mem_nil, or_false] at hop
    obtain rfl | ⟨b, -, ⟨k, -, rfl⟩ | rfl⟩ | ⟨k, -, rfl⟩ := hop <;> exact ⟨_, rfl, by simp⟩
  obtain ⟨i, rfl, hi⟩ := hnamed
  exact ⟨_, rfl, isRdStatus_encode hi⟩

/-- R123: the eight reads answer the digest's words in order. -/
theorem map_finRange_digest (d : Digest) :
    (List.finRange 8).map (fun i => Resp.okData d[i]) = d.toList.map .okData := by
  apply List.ext_getElem
  · simp
  · simp

theorem AtRest.final {s : State} {answers : List Resp} {digest : Digest} {count : BitVec 64}
    (h : AtRest s answers [] digest count) : s.final = true := by
  obtain ⟨hport, hprog⟩ := List.append_eq_nil_iff.1 h.todo
  have hpending : s.pending = none := by simpa using hport
  simp [State.final, hpending, hprog, (busy_false_iff s).2 h.idle]

/-- Settles O47: INIT, the block loop and the reads, one after another. -/
theorem hashProgramAnswersDigest : Obligations.HashProgramAnswersDigest := by
  intro s m hb hn hi hf hp hprog
  have hstart : AtRest s s.responses (hashOps m) s.h s.blkcnt :=
    ⟨⟨hb, hn, quiet_hashOps m, hf, rfl, (todo_of_free hp).trans hprog⟩, hi, rfl, rfl⟩
  obtain ⟨t, ht, hinit⟩ := AtRest.reaches_init hstart
  obtain ⟨u, hu, hchain⟩ := hinit.reaches_chain
  obtain ⟨v, hv, hdone⟩ := AtRest.reaches_reads (is := List.finRange 8) (ops := []) (by rwa [List.append_nil])
  obtain ⟨n, hrun⟩ := (ht.trans hu).trans hv
  refine ⟨n, v, hrun, hdone.final, hdone.unfaulted, hdone.digest_eq, ?_, ?_⟩
  · rw [hdone.count_eq]
    simp [pad]
  · rw [hdone.answers, map_finRange_digest]
    simp [pad, sha256, digestOf, List.replicate_add]

end Sys2Proof.Machine
end

section
/-! PROOFS. The padding (40_padding.md rules R150 to R162): the blocks of a message, put together again, are its padded
bytes, so every law of the blocks is read off the three pieces of `padBytes`. -/

namespace Sys2Proof.Machine

/-! The length field -/

@[simp] theorem length_lengthField (len : Nat) : (lengthField len).length = 8 := by simp [lengthField]

theorem lengthByte_eq (len k : Nat) : lengthByte len k = BitVec.ofNat 8 (8 * len % 2 ^ 64 / 2 ^ (56 - 8 * k)) := by
  rw [lengthByte, bitLength, BitVec.extractLsb', BitVec.toNat_ofNat, Nat.shiftRight_eq_div_pow]

theorem bigEndianNat_concat (bs : List Byte) (b : Byte) :
    bigEndianNat (bs ++ [b]) = bigEndianNat bs * 256 + b.toNat := by
  simp [bigEndianNat]

/-- R154: the first `k` bytes of the length field, read big-endian, are the high `8 k` bits of LEN. -/
theorem bigEndianNat_lengthBytes (len : Nat) {k : Nat} (hk : k ≤ 8) :
    bigEndianNat ((List.range k).map (lengthByte len)) = 8 * len % 2 ^ 64 / 2 ^ (64 - 8 * k) := by
  induction k with
  | zero => simp [bigEndianNat, Nat.div_eq_of_lt (Nat.mod_lt _ (Nat.two_pow_pos 64))]
  | succ k ih =>
    have hpow : 2 ^ (64 - 8 * k) = 2 ^ (56 - 8 * k) * 256 := by
      rw [show 64 - 8 * k = 56 - 8 * k + 8 by omega, Nat.pow_add]
    have hexp : 64 - 8 * (k + 1) = 56 - 8 * k := by omega
    rw [List.range_succ, List.map_append, List.map_singleton, bigEndianNat_concat, ih (by omega), lengthByte_eq,
      BitVec.toNat_ofNat, hpow, hexp, ← Nat.div_div_eq_div_mul]
    exact Nat.div_add_mod' _ 256

theorem bigEndianNat_lengthField (len : Nat) : bigEndianNat (lengthField len) = 8 * len % 2 ^ 64 := by
  rw [lengthField, bigEndianNat_lengthBytes len (Nat.le_refl 8)]
  simp

/-! The padded bytes -/

/-- R153, R155: the zero fill makes the message, 0x80, the fill and the length field whole blocks. -/
theorem length_add_zeroFill (len : Nat) : len + 1 + zeroFill len + 8 = 64 * blockCount len := by
  rw [zeroFill, blockCount]
  omega

theorem length_padBytes (m : List Byte) : (padBytes m).length = 64 * blockCount m.length := by
  rw [← length_add_zeroFill]
  simp [padBytes]
  omega

/-- R162: the last eight padded bytes are the length field. -/
theorem padBytes_drop (m : List Byte) : (padBytes m).drop ((padBytes m).length - 8) = lengthField m.length := by
  have hsplit : padBytes m = (m ++ 0x80 :: List.replicate (zeroFill m.length) 0) ++ lengthField m.length := by
    simp [padBytes]
  rw [hsplit]
  exact List.drop_left' (by simp; omega)

theorem padBytes_take (m : List Byte) : (padBytes m).take m.length = m := List.take_left

/-- R156: a padded byte is a byte of the message, 0x80, a zero, or a byte of the length field. -/
theorem padBytes_getD (m : List Byte) {k : Nat} (hk : k < 64 * blockCount m.length) :
    (padBytes m).getD k 0 =
      if k < m.length then m.getD k 0
      else if k = m.length then 0x80
      else if k < 64 * blockCount m.length - 8 then 0
      else lengthByte m.length (k - (64 * blockCount m.length - 8)) := by
  rw [← length_add_zeroFill] at hk ⊢
  rw [padBytes]
  split
  case isTrue h => exact List.getD_append _ _ _ _ h
  case isFalse hmsg =>
    rw [List.getD_append_right _ _ _ _ (by omega)]
    split
    case isTrue h => simp [h]
    case isFalse hone =>
      obtain ⟨j, rfl⟩ : ∃ j, k = m.length + 1 + j := ⟨k - (m.length + 1), by omega⟩
      rw [show m.length + 1 + j - m.length = j + 1 by omega, List.getD_cons_succ]
      split
      case isTrue h =>
        rw [List.getD_append _ _ _ _ (by simp; omega), List.getD_replicate _ (by omega)]
      case isFalse hzero =>
        rw [List.getD_append_right _ _ _ _ (by simp; omega), List.length_replicate,
          lengthField, List.getD_eq_getElem _ _ (by simp; omega), List.getElem_map, List.getElem_range]
        congr 1
        omega

/-! The blocks -/

theorem blockBytes_append (p q : List Block) : blockBytes (p ++ q) = blockBytes p ++ blockBytes q :=
  List.flatMap_append

/-- R155: block `n` holds the bytes from `64 n` on. -/
theorem toList_blockAt (p : List Byte) {n : Nat} (h : 64 * (n + 1) ≤ p.length) :
    (blockAt p n).toList = (p.drop (64 * n)).take 64 := by
  apply List.ext_getElem
  · simp
    omega
  · intro i hi _
    have hi : i < 64 := by simpa using hi
    simp [blockAt, List.getElem?_eq_getElem (show 64 * n + i < p.length by omega)]

/-- R155: cut into blocks and put together again, the first `64 n` bytes are as they were. -/
theorem blockBytes_blockAt (p : List Byte) {n : Nat} (h : 64 * n ≤ p.length) :
    blockBytes ((List.range n).map (blockAt p)) = p.take (64 * n) := by
  induction n with
  | zero => simp [blockBytes]
  | succ n ih =>
    have hlast : blockBytes ([n].map (blockAt p)) = (p.drop (64 * n)).take 64 := by
      simp [blockBytes, toList_blockAt p h]
    rw [List.range_succ, List.map_append, blockBytes_append, ih (by omega), hlast, Nat.mul_succ, List.take_add]

/-- R157: the bytes of pad(M) are the padded bytes of M. -/
theorem blockBytes_pad (m : List Byte) : blockBytes (pad m) = padBytes m := by
  rw [pad, blockBytes_blockAt _ (length_padBytes m).ge, ← length_padBytes, List.take_length]

/-- R160: below 2^61 bytes LEN is 8 L itself, and the first L padded bytes are the message. -/
theorem original_pad {m : List Byte} (h : m.length < 2 ^ 61) : original (pad m) = m := by
  have hlen : 8 * m.length % 2 ^ 64 / 8 = m.length := by omega
  rw [original, blockBytes_pad, padBytes_drop, bigEndianNat_lengthField, hlen, padBytes_take]

/-- Settles O44: each law is the law of the padded bytes. -/
theorem paddingLaws : Obligations.PaddingLaws := by
  intro m
  refine ⟨?_, ?_, original_pad, ?_⟩
  · rw [blockBytes_pad, length_padBytes, Nat.mul_mod_right]
  · rw [blockBytes_pad, length_padBytes, ← length_add_zeroFill]
    omega
  · rw [blockBytes_pad, padBytes_drop, bigEndianNat_lengthField]

/-- Settles O45: the bytes of the blocks are the padded bytes, piece by piece. -/
theorem paddingClosedForm : Obligations.PaddingClosedForm := by
  intro m
  refine ⟨by simp [pad], by rw [blockBytes_pad, length_padBytes], fun k hk => ?_⟩
  rw [blockBytes_pad, padBytes_getD m hk, lengthByte_eq]

end Sys2Proof.Machine
end

section
/-! PROOFS. The block in progress through a whole step (41_compression.md rules R188 and R191, 10_state.md rule R31). -/

namespace Sys2Proof.Machine

/-- The invariant is that a busy engine is on some block, with no message word written since. -/
theorem blockInv_iff (s : State) : BlockInv s ↔ (s.busy = true → s.msgValid = 0 ∧ ∃ m, OnBlock m s) := Iff.rfl

theorem blockInv_of_idle {s : State} (hp : s.phase = .idle) : BlockInv s :=
  fun hbusy => absurd hp ((busy_true_iff s).1 hbusy)

theorem BlockInv.on_block {s : State} (hi : BlockInv s) (hp : s.phase ≠ .idle) :
    s.msgValid = 0 ∧ ∃ m, OnBlock m s :=
  (blockInv_iff s).1 hi ((busy_true_iff s).2 hp)

theorem SameEngine.msgValid_eq {s t : State} (h : SameEngine s t) : t.msgValid = s.msgValid := by
  obtain ⟨-, -, -, hvalid, -⟩ := h
  exact hvalid.symm

/-- The invariant reads the engine only. -/
theorem BlockInv.congr {s t : State} (hi : BlockInv s) (e : SameEngine s t) : BlockInv t := by
  refine (blockInv_iff t).2 fun hbusy => ?_
  obtain ⟨hvalid, m, hm⟩ := (blockInv_iff s).1 hi (e.busy_eq ▸ hbusy)
  exact ⟨e.msgValid_eq.trans hvalid, m, hm.congr e⟩

/-- R231: a busy engine moves by rounds on its block, or ends it by the fold; in IDLE only COMPRESS begins one. -/
theorem Move.keeps_blockInv {o : Option Txn} {s t : State} (h : Move o s t) (hi : BlockInv s) : BlockInv t := by
  cases h with
  | stay => exact hi
  | answer r => exact hi.congr (by simp [SameEngine])
  | round hp =>
    obtain ⟨hvalid, m, hm⟩ := hi.on_block (by simp [hp])
    exact (blockInv_iff _).2 fun _ => ⟨hvalid, m, hm.roundStep hp⟩
  | fold hp => exact blockInv_of_idle rfl
  | fault hp c hc info => exact blockInv_of_idle (by simpa using hp)
  | init hp hf T hT hd => exact blockInv_of_idle hp
  | compress hp hf hv T hT hd => exact (blockInv_iff _).2 fun _ => ⟨rfl, s.msg, onBlock_startBlock s⟩
  | wmsg hp hf k d T hT hd => exact blockInv_of_idle hp

/-- Settles O30: reset leaves no block in progress, and each move keeps the engine on its block. -/
theorem stepKeepsBlockInvariant : Obligations.StepKeepsBlockInvariant := by
  intro s t hi h
  rcases step_moves h with ⟨rest, -, rfl⟩ | ⟨-, s', hsame, hmove⟩
  · exact blockInv_of_idle rfl
  · exact hmove.keeps_blockInv (hi.congr hsame)

end Sys2Proof.Machine
end

section
/-! PROOFS. The schedule's recurrence and the mixing functions bit by bit (41_compression.md rules R180 to R188). -/

namespace Sys2Proof.Machine

/-- Settles O39: `wAt_sched_low` and `wAt_sched_high` for the 6-bit word that has the index k; the subtractions of
Fin 64 and of 6-bit words are one by definition. -/
theorem scheduleFollowsRecurrence : Obligations.ScheduleFollowsRecurrence :=
  fun m => ⟨fun k => wAt_sched_low m (k := BitVec.ofNatLT k.val (by omega)) k.isLt,
    fun k hk => wAt_sched_high m (j := BitVec.ofFin k) hk⟩

/-! Ch and Maj -/

/-- No bit is set past the top of a word. -/
theorem lt_and_getLsbD (x : Word) (i : Nat) : (decide (i < 32) && x.getLsbD i) = x.getLsbD i := by
  simpa using BitVec.lt_of_getLsbD

/-- R180: a bit of x chooses. -/
theorem getLsbD_ch (x y z : Word) (i : Nat) :
    (ch x y z).getLsbD i = if x.getLsbD i then y.getLsbD i else z.getLsbD i := by
  cases hx : x.getLsbD i <;> simp [ch, hx, lt_and_getLsbD]

/-- R181: two bits of three decide. -/
theorem getLsbD_maj (x y z : Word) (i : Nat) :
    (maj x y z).getLsbD i = decide (2 ≤ [x, y, z].countP fun v => v.getLsbD i) := by
  simp only [maj, BitVec.getLsbD_xor, BitVec.getLsbD_and, List.countP_cons, List.countP_nil]
  cases x.getLsbD i <;> cases y.getLsbD i <;> cases z.getLsbD i <;> rfl

theorem ch_ones (y z : Word) : ch 0xFFFFFFFF y z = y := by
  have hones : (0xFFFFFFFF : Word) = BitVec.allOnes 32 := rfl
  refine BitVec.eq_of_getLsbD_eq fun i hi => ?_
  rw [getLsbD_ch, hones, BitVec.getLsbD_allOnes, decide_eq_true hi, if_pos rfl]

theorem ch_zero (y z : Word) : ch 0 y z = z := by
  refine BitVec.eq_of_getLsbD_eq fun i _ => ?_
  simp [getLsbD_ch]

theorem ch_same (x y : Word) : ch x y y = y :=
  BitVec.eq_of_getLsbD_eq fun i _ => (getLsbD_ch x y y i).trans (ite_self _)

theorem maj_same_left (x z : Word) : maj x x z = x := by
  simp [maj]

theorem maj_same_right (x y : Word) : maj x y y = y := by
  simp [maj]

theorem maj_not (x z : Word) : maj x (~~~x) z = z := by
  refine BitVec.eq_of_getLsbD_eq fun i hi => ?_
  simp only [maj, BitVec.getLsbD_xor, BitVec.getLsbD_and, BitVec.getLsbD_not, hi]
  cases x.getLsbD i <;> simp

/-- Settles O41, from the bit laws of Ch and Maj. -/
theorem chooseAndMajorityByBits : Obligations.ChooseAndMajorityByBits :=
  ⟨fun _ _ _ => ⟨rfl, rfl⟩, getLsbD_ch, getLsbD_maj, fun y z => ⟨ch_ones y z, ch_zero y z, ch_same z y⟩,
    fun x y z => ⟨maj_same_left x z, maj_same_right x y, maj_not x z⟩, by decide, by decide⟩

/-! The four sigma functions -/

/-- R13: the model's rotation is the library's. -/
theorem rotr_eq_rotateRight (x : Word) {n : Nat} (hn : n < 32) : rotr x n = x.rotateRight n := by
  rw [rotr, BitVec.rotateRight_def, Nat.mod_eq_of_lt hn]

/-- R13: bit i of a rotation right by n is bit i + n modulo 32. -/
theorem getLsbD_rotr (x : Word) {n i : Nat} (hn : n < 32) (hi : i < 32) :
    (rotr x n).getLsbD i = x.getLsbD ((i + n) % 32) := by
  rw [rotr_eq_rotateRight x hn, BitVec.getLsbD_rotateRight, Nat.mod_eq_of_lt hn]
  by_cases hlow : i < 32 - n
  · have hindex : (i + n) % 32 = n + i := by omega
    simp [hlow, hindex]
  · have hindex : (i + n) % 32 = i - (32 - n) := by omega
    simp [hi, hlow, hindex]

/-- R13: bit i of a shift right by n is bit i + n, and 0 past the top. -/
theorem getLsbD_shr (x : Word) (n i : Nat) :
    (shr x n).getLsbD i = (decide (i + n < 32) && x.getLsbD (i + n)) := by
  rw [shr, BitVec.getLsbD_ushiftRight, Nat.add_comm n i, lt_and_getLsbD]

section
variable {p q i : Nat} (x : Word) (hp : p < 32) (hq : q < 32) (hi : i < 32)
include hp hq hi

theorem getLsbD_mixRotations {r : Nat} (hr : r < 32) :
    (mixRotations p q r x).getLsbD i =
      (x.getLsbD ((i + p) % 32) ^^ x.getLsbD ((i + q) % 32) ^^ x.getLsbD ((i + r) % 32)) := by
  rw [mixRotations, BitVec.getLsbD_xor, BitVec.getLsbD_xor, getLsbD_rotr x hp hi, getLsbD_rotr x hq hi,
    getLsbD_rotr x hr hi]

theorem getLsbD_mixRotationsShift (s : Nat) :
    (mixRotationsShift p q s x).getLsbD i =
      (x.getLsbD ((i + p) % 32) ^^ x.getLsbD ((i + q) % 32) ^^ (decide (i + s < 32) && x.getLsbD (i + s))) := by
  rw [mixRotationsShift, BitVec.getLsbD_xor, BitVec.getLsbD_xor, getLsbD_rotr x hp hi, getLsbD_rotr x hq hi,
    getLsbD_shr]

end

/-- Settles O42: the bit law of each form at its amounts; the corner cases and examples are closed words. -/
theorem sigmasByBits : Obligations.SigmasByBits := by
  refine ⟨by decide, by decide, by decide, by decide, fun x i hi => ⟨?_, ?_, ?_, ?_⟩⟩
  · exact getLsbD_mixRotations x (by decide) (by decide) hi (by decide)
  · exact getLsbD_mixRotations x (by decide) (by decide) hi (by decide)
  · exact getLsbD_mixRotationsShift x (by decide) (by decide) hi 3
  · exact getLsbD_mixRotationsShift x (by decide) (by decide) hi 10

end Sys2Proof.Machine
end

section
/-! PROOFS. The host port (42_host_interface.md rules R230 to R233): a held transaction, the answer of a step, and the
transaction a step runs. -/

namespace Sys2Proof.Machine

/-! Acceptance -/

/-- R231: the row RDSTATUS as its mask and match. -/
theorem isRdStatus_iff_mask (t : Txn) : isRdStatus t = true ↔ t &&& 0x1ff00000000 = 0x00400000000 :=
  selects_iff (Instr.row .rdstatus) t

theorem isRdStatus_of_decode {t : Txn} (h : decode t = .instr .rdstatus) : isRdStatus t = true :=
  selects_of_decode h

/-- R232: acceptance of a named transaction runs its rule. -/
theorem hostAccept_instr {t : Txn} {i : Instr} (h : decode t = .instr i) (s : State) : hostAccept t s = exec i s := by
  rw [hostAccept, h]

/-- R231: while a block is in progress everything but RDSTATUS is held. -/
theorem accepts_eq_false {s : State} {t : Txn} (hz : s.phase ≠ .idle) (ht : isRdStatus t = false) :
    s.accepts t = false := by
  rw [State.accepts, (busy_true_iff s).2 hz, ht]
  rfl

theorem hostStep_held {s : State} {t : Txn} (hz : s.phase ≠ .idle) (ht : isRdStatus t = false) :
    hostStep t s = .next s := by
  rw [hostStep, accepts_eq_false hz ht]
  rfl

/-- R231: RDSTATUS is accepted in every phase. -/
theorem hostStep_rdstatus {t : Txn} (ht : isRdStatus t = true) (s : State) : hostStep t s = exec .rdstatus s := by
  rw [hostStep, if_pos ((accepts_iff s t).2 (.inr ht)), hostAccept_instr (decode_of_isRdStatus ht)]

/-- R243: the rule of a held transaction leaves the state alone. -/
theorem exec_held {s : State} {i : Instr} (hz : s.phase ≠ .idle) (hi : i ≠ .rdstatus) : exec i s = .next s := by
  have hb := (busy_true_iff s).2 hz
  cases i with
  | rdstatus => exact absurd rfl hi
  | nop | init | compress | wmsg => exact congrArg Host.Outcome.next (acceptWrite_busy _ hb)
  | rdblklo | rdblkhi | rdfinfo | rdh => exact congrArg Host.Outcome.next (acceptRead_busy _ hb)

/-! A held transaction -/

theorem takeTurn_cons {s : State} {x : Turn} {rest : List Turn} (hs : s.sched = x :: rest) :
    s.takeTurn = (x, { s with sched := rest }) := by
  rw [State.takeTurn, hs]

theorem canIssue_of_pending {s : State} {t : Txn} (hp : s.pending = some t) : s.canIssue = false := by
  rw [State.canIssue, hp]
  rfl

/-- R231, R233: whoever's turn it is, a step of a busy engine with a transaction held is its next step. -/
theorem step_held {s : State} {t : Txn} (hb : s.booted = true) (hturn : s.takeTurn.1 ≠ .reset) (hz : s.phase ≠ .idle)
    (hp : s.pending = some t) (ht : isRdStatus t = false) : step s = .next s.takeTurn.2.engineStep := by
  have hb' := (takeTurn_booted s).trans hb
  have hz' : s.takeTurn.2.phase ≠ .idle := by rwa [takeTurn_phase]
  have hp' := (takeTurn_pending s).trans hp
  have hhost := hostTurn_holds hp' (accepts_eq_false hz' ht)
  unfold step
  cases hT : s.takeTurn.1 with
  | reset => exact absurd hT hturn
  | host => exact (if_pos hb').trans hhost
  | engine => exact (if_pos hb').trans (if_pos ((busy_true_iff _).2 hz'))
  | issue =>
    rw [runTurn, if_pos hb', issueTurn, canIssue_of_pending hp']
    exact hhost

/-- R250, R251: each of the steps left counts one down. -/
theorem stepsLeft_engineSteps {k : Nat} {s : State} (hk : k ≤ stepsLeft s) :
    stepsLeft (s.engineSteps k) = stepsLeft s - k := by
  induction k generalizing s with
  | zero => rfl
  | succ k ih =>
    have hstep : stepsLeft s.engineStep = stepsLeft s - 1 := stepsLeft_engineStep (by omega)
    rw [State.engineSteps, ih (by omega), hstep]
    omega

/-- Settles O18: what is held is never executed, and `stepsLeft` counts the steps until PHASE is IDLE. -/
theorem busyEngineHoldsTransactions : Obligations.BusyEngineHoldsTransactions := by
  have held : ∀ {t : Txn}, t &&& 0x1ff00000000 ≠ 0x00400000000 → isRdStatus t = false := fun ht =>
    Bool.eq_false_iff.2 (mt (isRdStatus_iff_mask _).1 ht)
  refine ⟨fun s t hz ht => hostStep_held hz (held ht), fun s t _ ht => hostStep_rdstatus ((isRdStatus_iff_mask t).2 ht) s,
    fun s t hp => hostStep_idle t hp, fun s i hz hi => exec_held hz hi, ?_, ?_, ?_⟩
  · intro s t x rest hb hs hx hz hp ht
    have hturn := takeTurn_cons hs
    have hstep := step_held hb (by rwa [hturn]) hz hp (held ht)
    rw [hturn] at hstep
    exact ⟨hstep, (engineStep_pending _).trans hp, engineStep_responses _⟩
  · intro s hp
    rw [← stepsLeft_run hp]
    refine ⟨(stepsLeft_eq_zero_iff _).1 ?_, fun k hk => mt (stepsLeft_eq_zero_iff _).2 ?_⟩
    · rw [stepsLeft_engineSteps le_rfl, Nat.sub_self]
    · rw [stepsLeft_engineSteps hk.le]
      omega
  · intro s hp
    rw [engineStep_fold hp, foldStep_phase]

/-- R231, R341: with no reset, a held transaction waits through each of the engine steps left. -/
theorem runSteps_held {t : Txn} (ht : isRdStatus t = false) {k : Nat} {s : State} (hb : s.booted = true)
    (hn : s.noReset) (hp : s.pending = some t) (hk : k ≤ stepsLeft s) :
    ∃ u, runSteps k s = .next u ∧ stepsLeft u = stepsLeft s - k ∧ u.pending = some t ∧ u.responses = s.responses ∧
      u.program = s.program := by
  induction k generalizing s with
  | zero => exact ⟨s, rfl, rfl, hp, rfl, rfl⟩
  | succ k ih =>
    obtain ⟨hn', hturn⟩ := takeTurn_noReset hn
    have hz : s.phase ≠ .idle := mt (stepsLeft_eq_zero_iff s).2 (by omega)
    have hleft : stepsLeft s.takeTurn.2.engineStep = stepsLeft s - 1 :=
      stepsLeft_engineStep (by rw [(sameEngine_takeTurn s).stepsLeft_eq]; omega)
    obtain ⟨u, hrun, hu, hpend, hresp, hprog⟩ := ih (s := s.takeTurn.2.engineStep) (by simpa using hb)
      (by rwa [State.noReset, engineStep_sched]) (by simpa using hp) (by omega)
    refine ⟨u, ?_, by omega, hpend, by simpa using hresp, by simpa using hprog⟩
    rw [runSteps_next (step_held hb hturn hz hp ht), hrun]

/-- Settles O19: from RUN with RND = j, 65 - j engine steps are left. -/
theorem heldTransactionWaitsOutTheBlock : Obligations.HeldTransactionWaitsOutTheBlock := by
  intro s t hb hn hrun hp ht
  rw [← stepsLeft_run hrun]
  constructor
  · obtain ⟨u, hsteps, hleft, hrest⟩ := runSteps_held ht hb hn hp le_rfl
    exact ⟨u, hsteps, (stepsLeft_eq_zero_iff u).1 (by omega), hrest⟩
  · intro k hk
    obtain ⟨v, hsteps, hleft, hpend, -⟩ := runSteps_held ht hb hn hp hk.le
    exact ⟨v, hsteps, mt (stepsLeft_eq_zero_iff v).2 (by omega), hpend⟩

/-! The order of RDSTATUS and an engine step -/

/-- R233: answering and the engine's step touch different registers. -/
theorem engineStep_respond (s : State) (r : Resp) : (s.respond r).engineStep = s.engineStep.respond r := by
  cases hp : s.phase with
  | idle => rw [engineStep_idle hp, engineStep_idle (by exact hp)]
  | run => rw [engineStep_run hp, engineStep_run (by exact hp)]; rfl
  | fold => rw [engineStep_fold hp, engineStep_fold (by exact hp)]; rfl

/-- The state with another schedule of turns. -/
def State.withSched (turns : List Turn) (s : State) : State := { s with sched := turns }

/-- The engine's step reads no turn. -/
theorem engineStep_withSched (turns : List Turn) (s : State) :
    (s.withSched turns).engineStep = s.engineStep.withSched turns := by
  cases hp : s.phase with
  | idle => rw [engineStep_idle hp, engineStep_idle (by exact hp)]
  | run => rw [engineStep_run hp, engineStep_run (by exact hp)]; rfl
  | fold => rw [engineStep_fold hp, engineStep_fold (by exact hp)]; rfl

/-- R238: a host's turn with RDSTATUS on the port answers STATUS. -/
theorem step_rdstatus {s : State} {t : Txn} {rest : List Turn} (hb : s.booted = true) (hs : s.sched = .host :: rest)
    (hp : s.pending = some t) (ht : isRdStatus t = true) :
    step s = .next ((s.withSched rest).respond (.okData s.status)) := by
  rw [step_host hs hb, hostTurn_accepts (by exact hp) ((accepts_iff _ t).2 (.inr ht)),
    hostAccept_instr (decode_of_isRdStatus ht)]
  rfl

/-- R233: the host's turn and then the engine's. -/
theorem runSteps_host_engine {s : State} {t : Txn} (rest : List Turn) (hb : s.booted = true) (hz : s.busy = true)
    (hp : s.pending = some t) (ht : isRdStatus t = true) :
    runSteps 2 (s.withSched (.host :: .engine :: rest)) =
      .next ((s.engineStep.withSched rest).respond (.okData s.status)) := by
  have hhost := step_rdstatus (s := s.withSched (.host :: .engine :: rest)) hb rfl hp ht
  have hengine := step_engine (s := (s.withSched (.engine :: rest)).respond (.okData s.status)) rfl hb hz
  rw [runSteps_next hhost, ← engineStep_withSched, ← engineStep_respond]
  exact runSteps_next hengine

/-- R233: the engine's turn and then the host's. -/
theorem runSteps_engine_host {s : State} {t : Txn} (rest : List Turn) (hb : s.booted = true) (hz : s.busy = true)
    (hp : s.pending = some t) (ht : isRdStatus t = true) :
    runSteps 2 (s.withSched (.engine :: .host :: rest)) =
      .next ((s.engineStep.withSched rest).respond (.okData s.engineStep.status)) := by
  have hengine : step (s.withSched (.engine :: .host :: rest)) = .next (s.withSched (.host :: rest)).engineStep :=
    step_engine rfl hb hz
  have hhost := step_rdstatus (s := s.engineStep.withSched (.host :: rest)) ((engineStep_booted s).trans hb) rfl
    ((engineStep_pending s).trans hp) ht
  rw [runSteps_next hengine, engineStep_withSched]
  exact runSteps_next hhost

/-- Settles O24: both orders lead to the engine's step, answered with the STATUS before it or after it. -/
theorem rdstatusOrderChangesOnlyAnswer : Obligations.RdstatusOrderChangesOnlyAnswer := by
  intro s t rest hb hz hp ht
  have hbusy := (busy_true_iff s).2 hz
  have hkeep : (s.engineStep.withSched rest).responses = s.responses := engineStep_responses s
  exact ⟨_, _, runSteps_host_engine rest hb hbusy hp ht, runSteps_engine_host rest hb hbusy hp ht,
    by rw [respond_responses, hkeep], by rw [respond_responses, hkeep], rfl⟩

/-! One answer per transaction -/

theorem Prepared.responses_eq {s s' : State} (h : Prepared s s') : s'.responses = s.responses := by
  obtain ⟨-, hresp, -⟩ := h
  exact hresp

/-- R111: an accepted transaction is answered once and leaves the port. -/
theorem hostAccept_answers {s t : State} {T : Txn} (ha : s.accepts T = true) (h : hostAccept T s = .next t) :
    ∃ r, t.responses = s.responses ++ [r] ∧ t.pending = none := by
  rcases hostAccept_cases ha h with ⟨r, rfl⟩ | ⟨-, c, info, -, -, rfl⟩ | ⟨-, -, i, -, hacc⟩
  · exact ⟨r, rfl, rfl⟩
  · exact ⟨.err, raiseFault_responses c info s, raiseFault_pending c info s⟩
  · cases hacc with
    | init => exact ⟨.ok, rfl, rfl⟩
    | compress => exact ⟨.ok, rfl, rfl⟩
    | incomplete => exact ⟨.err, raiseFault_responses _ _ s, raiseFault_pending _ _ s⟩
    | wmsg => exact ⟨.ok, rfl, rfl⟩

/-- Settles O37: reset answers what is on the port, an acceptance answers what it accepts, and nothing else answers. -/
theorem oneAnswerPerTransaction : Obligations.OneAnswerPerTransaction := by
  intro s t h
  rcases step_cases h with ⟨rest, -, rfl⟩ | ⟨-, s', hprep, -, hmove⟩
  · cases hp : s.pending with
    | none => exact .inl ⟨by simp, by simp⟩
    | some T => exact .inr ⟨.err, by simp, rfl, by simp [issueNext_pending_of_pending hp]⟩
  · have hresp := hprep.responses_eq
    obtain rfl | rfl | ⟨T, hT, ha, hacc⟩ := hmove
    · exact .inl ⟨hresp, fun T hT => hprep.keeps hT⟩
    · exact .inl ⟨(engineStep_responses s').trans hresp, fun T hT => (engineStep_pending s').trans (hprep.keeps hT)⟩
    · obtain ⟨r, hr, hpend⟩ := hostAccept_answers ha hacc
      exact .inr ⟨r, hr.trans (by rw [hresp]), hpend, by simp [hprep.offered hT]⟩

/-! The transaction a step runs -/

/-- R232: the host's turn with a named transaction on the port that can be accepted. -/
theorem hostTurn_exec {s : State} {t : Txn} {i : Instr} (hp : s.pending = some t) (hd : decode t = .instr i)
    (hi : s.phase = .idle ∨ i = .rdstatus) : hostTurn s = exec i s := by
  have ha : s.phase = .idle ∨ isRdStatus t = true := hi.imp_right fun e => isRdStatus_of_decode (by rw [hd, e])
  rw [hostTurn_accepts hp ((accepts_iff s t).2 ha), hostAccept_instr hd]

/-- R232: the host's turn in IDLE with a word of a fault class on the port. -/
theorem hostTurn_fault {s : State} {t : Txn} {c : Cause} {info : Word} (hp : s.pending = some t)
    (hidle : s.phase = .idle) (hd : decode t = .fault c info) : hostTurn s = .next (s.raiseFault c info) := by
  rw [hostTurn_accepts hp ((accepts_iff s t).2 (.inl hidle)), hostAccept_fault hd]

/-- Log 17: the host's reading of a table word is the decoder's. -/
theorem decode_of_decodeTableWord {n w : Nat} {i : Instr} (h : decodeTableWord n w = some i) :
    decode (tableTxn n w) = .instr i := by
  unfold decodeTableWord at h
  split at h
  · split at h
    case h_1 hd => rw [hd, Option.some.inj h]
    case h_2 => cases h
  · cases h

/-- Settles O7: the turn is the host's, and `hostTurn_exec` says what it runs. -/
theorem stepRunsDecodedInstruction : Obligations.StepRunsDecodedInstruction := by
  refine ⟨fun s rest t i hb hs hp hd hi => ?_, fun s rest t i hb hs hidle hp hprog hd => ?_,
    fun s n w i hb hw hi => ?_⟩
  · rw [step_host hs hb]
    exact hostTurn_exec hp hd hi
  · have hnext : nextIssue s.responses s.program = (some t, rest) := by rw [hprog, nextIssue]
    rw [step_idle hs hb hidle, hostTurn_issues hp hnext]
    exact hostTurn_exec rfl hd (.inl hidle)
  · rw [State.withFetchWord, step_host (offer_sched _ s) hb]
    exact hostTurn_exec rfl (decode_of_decodeTableWord hw) hi

/-- Settles O8: the acceptance raises the fault that decode gives the word. -/
theorem stepRaisesDecodeFault : Obligations.StepRaisesDecodeFault := by
  intro s rest t c info hb hs hp hidle hd
  rw [step_host hs hb]
  refine (hostTurn_fault (s := { s with sched := rest }) hp hidle hd).trans (congrArg Host.Outcome.next ?_)
  split
  case isTrue hf => exact raiseFault_faulted (s := { s with sched := rest }) hf c info
  case isFalse hf => exact raiseFault_not_faulted (s := { s with sched := rest }) (Bool.eq_false_iff.2 hf) c info

end Sys2Proof.Machine
end

section
/-! PROOFS. What each named transaction does (42_host_interface.md rules R234 to R242). -/

namespace Sys2Proof.Machine

/-- R232: while FAULT = 1 a write is answered ERR and has no effect. -/
theorem exec_write_faulted {s : State} {i : Instr} (hi : i.isWrite = true) (hp : s.phase = .idle)
    (hf : s.fault = true) : exec i s = .next (s.respond .err) := by
  cases i with
  | nop | init | compress | wmsg => exact congrArg Host.Outcome.next (acceptWrite_faulted _ hp hf)
  | rdstatus | rdblklo | rdblkhi | rdfinfo | rdh => cases hi

/-- Settles O11: of the three cases of a write, the effect is the answer OK alone. -/
theorem nopOnlyAnswers : Obligations.NopOnlyAnswers :=
  ⟨by decide, fun _ hz => exec_held hz (by simp), fun _ hp =>
    ⟨fun hf => congrArg Host.Outcome.next (acceptWrite_go _ hp hf), fun hf => exec_write_faulted rfl hp hf⟩⟩

/-- Settles O12: the same three cases, with the effect of `initDigest`. -/
theorem initLoadsInitialDigest : Obligations.InitLoadsInitialDigest :=
  ⟨by decide, fun _ hz => exec_held hz (by simp), fun _ hp =>
    ⟨fun hf => congrArg Host.Outcome.next (acceptWrite_go _ hp hf), fun hf => exec_write_faulted rfl hp hf⟩⟩

/-- R236, R284: COMPRESS with a word of the block not written. -/
theorem exec_compress_incomplete {s : State} (hp : s.phase = .idle) (hf : s.fault = false) (hv : s.msgValid ≠ 0xFFFF) :
    exec .compress s = .next (s.raiseFault .incompleteBlock (s.msgValid.setWidth 32)) := by
  have hc : ¬ s.blockComplete = true := by simpa [State.blockComplete] using hv
  rw [exec, execCompress, acceptWrite_go _ hp hf, if_neg hc]

/-- Settles O13: `startBlock` is the effect on a complete block, and `getElem_loadSchedule` gives its schedule. -/
theorem compressStartsOrFaults : Obligations.CompressStartsOrFaults := by
  refine ⟨by decide, fun s hz => exec_held hz (by simp), fun s hp => ⟨fun hf => exec_write_faulted rfl hp hf,
    fun hf hv => ?_, fun hf hv => ?_⟩⟩
  · rw [exec_compress_incomplete hp hf hv, raiseFault_not_faulted hf]
  · refine ⟨loadSchedule s.msg s.w, freeWords 16 s.free, s.free + 16,
      fun k => getElem_loadSchedule s.msg s.w k.val k.isLt, ?_⟩
    rw [exec_compress_complete hp hf hv]
    simp only [State.respond, State.startBlock, State.forgetMsg, WorkRegs.ofDigest]

/-- R110: T as its three shifted fields put together. -/
theorem txnOf_eq_or (b : Bool) (a : Offset) (d : Word) :
    txnOf b a d = ((BitVec.ofBool b).setWidth 41 <<< 40) ||| (a.setWidth 41 <<< 32) ||| d.setWidth 41 := by
  apply BitVec.eq_of_getLsbD_eq
  intro i hi
  rw [getLsbD_txnOf]
  simp only [BitVec.getLsbD_or, BitVec.getLsbD_shiftLeft, BitVec.getLsbD_setWidth]
  by_cases h32 : i < 32
  · simp [h32, hi, show i < 40 by omega]
  · by_cases h40 : i < 40
    · simp [h32, h40, hi, show i - 32 < 41 by omega, BitVec.getLsbD_of_ge d i (by omega)]
    · obtain rfl : i = 40 := by omega
      simp

/-- R47: MSG[i] lies at offset 0x40 + 4i. -/
theorem setWidth_msgOffset : ∀ i : Fin 16, (msgOffset i).setWidth 41 = BitVec.ofNat 41 (0x40 + 4 * i.val) := by decide

/-- Settles O14: `getElem_setMsg` and `getLsbD_setValid` give the word and the bit written. -/
theorem wmsgWritesOneWord : Obligations.WmsgWritesOneWord := by
  refine ⟨fun i d => ?_, fun s i d hz => exec_held hz (by simp), fun s i d hp =>
    ⟨fun hf => exec_write_faulted rfl hp hf, fun hf => ?_⟩⟩
  · rw [encode, txnOf_eq_or, setWidth_msgOffset]
    rfl
  · exact ⟨setMsg s.msg i d, setValid s.msgValid i, fun k => getElem_setMsg s.msg i k d,
      fun k => by rw [getLsbD_setValid, Bool.or_comm], congrArg Host.Outcome.next (acceptWrite_go _ hp hf)⟩

/-- R239: the low half as a number. -/
theorem blkLo_eq (s : State) : s.blkLo = BitVec.ofNat 32 (s.blkcnt.toNat % 2 ^ 32) := by
  rw [State.blkLo]
  apply BitVec.eq_of_toNat_eq
  simp

/-- R240: the high half as a number. -/
theorem blkHi_eq (s : State) : s.blkHi = BitVec.ofNat 32 (s.blkcnt.toNat / 2 ^ 32) := by
  rw [State.blkHi]
  apply BitVec.eq_of_toNat_eq
  simp [Nat.shiftRight_eq_div_pow]

/-- Settles O16: a read is answered with its register in IDLE, and held otherwise. -/
theorem readsAnswerTheirRegister : Obligations.ReadsAnswerTheirRegister := by
  refine ⟨⟨by decide, by decide, by decide, by decide⟩, fun s => ⟨fun hp => ?_, fun hz => ?_⟩⟩
  · have answer := fun v => congrArg (Host.Outcome.next (φ := Fault) (ρ := Refusal)) (acceptRead_idle v hp)
    rw [← blkLo_eq, ← blkHi_eq]
    exact ⟨answer _, answer _, answer _, fun i => answer _⟩
  · exact ⟨exec_held hz (by simp), exec_held hz (by simp), exec_held hz (by simp), fun i => exec_held hz (by simp)⟩

end Sys2Proof.Machine
end

section
/-! PROOFS. The engine's own steps (42_host_interface.md rules R250 and R251) and the run of them that computes C
(R253). -/

namespace Sys2Proof.Machine

/-- R187, R250: the schedule after the round's expansion, entry by entry. -/
theorem getElem_expandSchedule (w : Schedule) (j : BitVec 6) (k : Fin 64) :
    (expandSchedule w j)[k] =
      if k.val = j.toNat ∧ 16 ≤ k.val then ssig1 w[k - 2] + w[k - 7] + ssig0 w[k - 15] + w[k - 16] else w[k] := by
  by_cases hk : k.val = j.toNat
  · obtain rfl : j = BitVec.ofFin k := BitVec.eq_of_toNat_eq hk.symm
    by_cases h16 : 16 ≤ k.val
    · rw [if_pos ⟨rfl, h16⟩]
      exact wAt_expandSchedule_self h16
    · rw [if_neg fun h => h16 h.2, expandSchedule_low (Nat.lt_of_not_le h16)]
  · rw [if_neg fun h => hk h.1]
    exact wAt_expandSchedule_ne w fun e => hk (congrArg BitVec.toNat e)

/-- Settles O20: `getElem_expandSchedule` gives the schedule, and the rest is `roundStep` written out. -/
theorem roundStepEffect : Obligations.RoundStepEffect := by
  intro s hp
  have hlast : s.rnd = 63 ↔ s.rnd.toNat = 63 := (BitVec.toNat_inj (y := 63)).symm
  refine ⟨expandSchedule s.w s.rnd, getElem_expandSchedule s.w s.rnd, ?_⟩
  rw [engineStep_run hp]
  simp only [← hlast]
  rfl

/-- Settles O21: `getElem_applyFold` gives each word. -/
theorem foldStepEffect : Obligations.FoldStepEffect := by
  intro s hp
  have word := fun i hi => getElem_applyFold s.h s.wr i hi
  refine ⟨applyFold s.h s.wr, ⟨word 0 _, word 1 _, word 2 _, word 3 _, word 4 _, word 5 _, word 6 _, word 7 _⟩, ?_⟩
  rw [engineStep_fold hp, BitVec.ofNat_add, BitVec.ofNat_toNat, BitVec.setWidth_eq]
  rfl

@[simp] theorem engineSteps_responses (k : Nat) (s : State) : (s.engineSteps k).responses = s.responses := by
  induction k generalizing s with
  | zero => rfl
  | succ k ih => exact (ih s.engineStep).trans (engineStep_responses s)

/-- R253, R301: the record of round j of block `blk`, on the message words m from the digest state h. -/
def roundRecord (blk : BitVec 64) (h : Digest) (m : MsgWords) (j : Nat) : Snap :=
  .roundSnap blk (BitVec.ofNat 6 j) (roundsUpTo (sched m) (WorkRegs.ofDigest h) (j + 1))

/-- R250: the record that a round on the block m emits. -/
theorem OnBlock.trace_roundStep {m : MsgWords} {s : State} (h : OnBlock m s) (hp : s.phase = .run) :
    s.roundStep.trace = s.trace ++ [roundRecord s.blkcnt s.h m s.rnd.toNat] := by
  obtain ⟨-, hwr⟩ := h.roundStep hp
  rw [roundsDone_roundStep, roundStep_h] at hwr
  rw [roundRecord, ← hwr, BitVec.ofNat_toNat, BitVec.setWidth_eq]
  rfl

/-- R250, R253: k rounds from round 0 keep the block, its index and its digest state, and emit k records. -/
theorem OnBlock.engineSteps {m : MsgWords} {s : State} (h : OnBlock m s) (hp : s.phase = .run) (hr : s.rnd = 0)
    {k : Nat} (hk : k ≤ 64) :
    OnBlock m (s.engineSteps k) ∧ (s.engineSteps k).h = s.h ∧ (s.engineSteps k).blkcnt = s.blkcnt ∧
      (s.engineSteps k).trace = s.trace ++ (List.range k).map (roundRecord s.blkcnt s.h m) := by
  induction k with
  | zero => exact ⟨h, rfl, rfl, (List.append_nil _).symm⟩
  | succ k ih =>
    obtain ⟨hm, hh, hblk, htrace⟩ := ih (by omega)
    have hr0 : s.rnd.toNat = 0 := by rw [hr]; rfl
    obtain ⟨hrun, hrnd⟩ := engineSteps_in_rounds (k := k) hp (by omega)
    rw [hr0, Nat.zero_add] at hrnd
    rw [engineSteps_succ, engineStep_run hrun]
    refine ⟨hm.roundStep hrun, hh, hblk, ?_⟩
    rw [hm.trace_roundStep hrun, htrace, hh, hblk, hrnd, List.range_succ, List.map_append, List.append_assoc]
    rfl

/-- R251, R253: from round 0 the 65 steps of a block leave C in H and emit the block's 65 records. -/
theorem OnBlock.engineSteps_block {m : MsgWords} {s : State} (h : OnBlock m s) (hp : s.phase = .run) (hr : s.rnd = 0) :
    (s.engineSteps 65).phase = .idle ∧ (s.engineSteps 65).h = compressBlock s.h m ∧
      (s.engineSteps 65).blkcnt = s.blkcnt + 1 ∧
      (s.engineSteps 65).trace = s.trace ++ (List.range 64).map (roundRecord s.blkcnt s.h m)
        ++ [.blockSnap s.blkcnt (compressBlock s.h m)] := by
  obtain ⟨hm, hh, hblk, htrace⟩ := h.engineSteps hp hr le_rfl
  obtain ⟨hfold, -⟩ := engineSteps_after_rounds (k := 64) hp (by rw [hr]; rfl)
  have hdigest := hm.h_after_fold hfold
  rw [hh] at hdigest
  rw [engineSteps_succ, engineStep_fold hfold]
  exact ⟨rfl, hdigest, by rw [foldStep_blkcnt, hblk], by rw [foldStep_trace, ← foldStep_h, hdigest, hblk, htrace]⟩

/-- Settles O22: COMPRESS puts the engine on the block in MSG, at round 0. -/
theorem engineComputesCompression : Obligations.EngineComputesCompression := by
  intro s hp hf hv
  have hstart : OnBlock s.msg (s.startBlock.respond .ok) := (onBlock_startBlock s).congr (by simp [SameEngine])
  obtain ⟨hidle, hdigest, hblk, htrace⟩ := hstart.engineSteps_block rfl rfl
  simp only [respond_h, startBlock_h, respond_blkcnt, startBlock_blkcnt, respond_trace, startBlock_trace]
    at hdigest hblk htrace
  exact ⟨_, exec_compress_complete hp hf hv, hidle, hdigest, hblk, engineSteps_responses 65 _, htrace⟩

end Sys2Proof.Machine
end

section
/-! PROOFS. The faulted state (60_exceptions.md rules R282 and R286): how it is entered, what it answers and how it is
left; and the machine before its first reset (R314). -/

namespace Sys2Proof.Machine

/-! Entering and leaving the faulted state -/

/-- R281, R282: of the moves only a fault, in IDLE, raises FAULT, and it leaves the engine in IDLE. -/
theorem Move.fault_rises_in_idle {o : Option Txn} {s t : State} (h : Move o s t) (hf : s.fault = false)
    (ht : t.fault = true) : s.phase = .idle ∧ t.phase = .idle := by
  cases h with
  | fault hp c hc info => exact ⟨hp, (raiseFault_phase c info s).trans hp⟩
  | _ => simp [hf] at ht

/-- Settles O10: reset clears FAULT, and of the moves only a fault raises it. -/
theorem firstFaultIsRecorded : Obligations.FirstFaultIsRecorded := by
  refine ⟨fun s c info hf => raiseFault_not_faulted hf c info, fun s c info hf => raiseFault_faulted hf c info,
    fun s t h hf ht => ?_⟩
  rcases step_moves h with ⟨rest, -, rfl⟩ | ⟨-, s', ⟨-, -, -, -, -, hphase, -, hfault, -⟩, hmove⟩
  · cases ht
  · rw [hphase]
    exact hmove.fault_rises_in_idle (hfault ▸ hf) ht

/-- R286: a recorded fault outlasts every step but a reset. -/
theorem step_keeps_fault {s t : State} (h : step s = .next t) (hf : s.fault = true)
    (hnr : s.sched.head? ≠ some .reset) : t.fault = true := by
  obtain ⟨hrecorded, -⟩ := faultRecordChangesOnce s t h hnr
  exact (hrecorded hf).1

/-! The answers of the faulted state -/

/-- R286: a named read is answered in IDLE, whether FAULT is set or not. -/
theorem exec_read_idle {s : State} {i : Instr} (hi : i.isWrite = false) (hp : s.phase = .idle) :
    ∃ v, exec i s = .next (s.respond (.okData v)) := by
  cases i with
  | nop | init | compress | wmsg => cases hi
  | rdstatus => exact ⟨s.status, rfl⟩
  | rdblklo | rdblkhi | rdfinfo | rdh => exact ⟨_, congrArg Host.Outcome.next (acceptRead_idle _ hp)⟩

/-- R286: a transaction of a fault class is answered ERR, and the record stays. -/
theorem hostStep_fault_faulted {s : State} {t : Txn} {c : Cause} {info : Word} (hp : s.phase = .idle)
    (hf : s.fault = true) (hd : decode t = .fault c info) : hostStep t s = .next (s.respond .err) := by
  rw [hostStep_idle t hp, hostAccept_fault hd, raiseFault_faulted hf]

/-- R286: a write is answered ERR, whether it is a named one or of a fault class. -/
theorem hostStep_write_faulted {s : State} {t : Txn} (hp : s.phase = .idle) (hf : s.fault = true)
    (hw : t.we = true) : hostStep t s = .next (s.respond .err) := by
  cases hd : decode t with
  | fault c info => exact hostStep_fault_faulted hp hf hd
  | instr i =>
    rw [hostStep_idle t hp, hostAccept_instr hd]
    exact exec_write_faulted ((decode_we hd).symm.trans hw) hp hf

/-- Settles O17, answer by answer; `step_keeps_fault` is its last clause. -/
theorem faultedStateAnswersReadsOnly : Obligations.FaultedStateAnswersReadsOnly := by
  refine ⟨fun s hp hf => ⟨fun t hw => hostStep_write_faulted hp hf hw, fun t i hw hd => ?_,
    fun t c info _ hd => hostStep_fault_faulted hp hf hd⟩, fun s t h hf => ?_⟩
  · have hrun : hostStep t s = exec i s := by rw [hostStep_idle t hp, hostAccept_instr hd]
    obtain ⟨v, hv⟩ := exec_read_idle ((decode_we hd).symm.trans hw) hp
    exact ⟨hrun, v, hrun.trans hv⟩
  · by_cases hreset : s.sched.head? = some .reset
    · exact .inr hreset
    · exact .inl (step_keeps_fault h hf hreset)

/-! Before the first reset -/

/-- R320: a step is reset only where the schedule says so. -/
theorem takeTurn_ne_reset {s : State} (hnr : s.sched.head? ≠ some .reset) : s.takeTurn.1 ≠ .reset := by
  cases hs : s.sched with
  | cons x rest =>
    rw [takeTurn_cons hs]
    simpa [hs] using hnr
  | nil =>
    have hn : s.noReset := by simp [State.noReset, hs]
    exact (takeTurn_noReset hn).2

/-- R314: before the first reset every turn but a reset stops the machine. -/
theorem runTurn_not_booted {s : State} {x : Turn} (hb : s.booted = false) (hx : x ≠ .reset) :
    runTurn x s = beforeReset s := by
  have hb' : ¬ s.booted = true := by simp [hb]
  cases x with
  | reset => exact absurd rfl hx
  | host | engine | issue => exact if_neg hb'

/-- Settles O27: using up the turn leaves what the host offers, which `beforeReset` asks for. -/
theorem onlyResetBeforeFirstReset : Obligations.OnlyResetBeforeFirstReset := by
  intro s hb hnr
  have hstep : step s = beforeReset s.takeTurn.2 :=
    runTurn_not_booted ((takeTurn_booted s).trans hb) (takeTurn_ne_reset hnr)
  rw [hstep, beforeReset, takeTurn_issueNext_pending]
  exact ⟨fun hoffer => if_pos (Option.isSome_iff_ne_none.2 hoffer), fun hnone => if_neg (by simp [hnone])⟩

end Sys2Proof.Machine
end

section
/-! PROOFS. The trace (60_exceptions.md rules R300 to R302): the one record of an engine step, and the wire packing of
records. -/

namespace Sys2Proof.Machine

/-! The record of a step -/

/-- R250, R251: an engine step reads the engine only. -/
theorem SameEngine.engineStep {s t : State} (h : SameEngine s t) : SameEngine s.engineStep t.engineStep := by
  obtain ⟨hh, hwr, hmsg, hvalid, hw, hphase, hrnd, hfault, hcause, hblk, hinfo, htrace⟩ := h
  cases hp : t.phase with
  | idle =>
    rw [engineStep_idle hp, engineStep_idle (hphase.trans hp)]
    exact ⟨hh, hwr, hmsg, hvalid, hw, hphase, hrnd, hfault, hcause, hblk, hinfo, htrace⟩
  | run =>
    rw [engineStep_run hp, engineStep_run (hphase.trans hp)]
    simp [SameEngine, hh, hwr, hmsg, hvalid, hw, hrnd, hfault, hcause, hblk, hinfo, htrace]
  | fold =>
    rw [engineStep_fold hp, engineStep_fold (hphase.trans hp)]
    simp [SameEngine, hh, hwr, hmsg, hvalid, hw, hrnd, hfault, hcause, hblk, hinfo, htrace]

/-- R300: the engine step of a block in progress emits the record of its round or of its fold. -/
theorem engineStep_emits {s : State} (hz : s.phase ≠ .idle) :
    (s.phase = .run ∧ s.engineStep.trace = s.trace ++ [.roundSnap s.blkcnt s.rnd s.engineStep.wr] ∧
      (if s.rnd = 63 then s.engineStep.phase = .fold ∧ s.engineStep.rnd = 0
        else s.engineStep.phase = .run ∧ s.engineStep.rnd = s.rnd + 1)) ∨
    (s.phase = .fold ∧ s.engineStep.trace = s.trace ++ [.blockSnap s.blkcnt s.engineStep.h] ∧
      s.engineStep.phase = .idle) := by
  cases hp : s.phase with
  | idle => exact absurd hp hz
  | run =>
    rw [engineStep_run hp]
    refine .inl ⟨rfl, rfl, ?_⟩
    split
    case isTrue hr => exact roundStep_last hr
    case isFalse hr => exact roundStep_next hr
  | fold =>
    rw [engineStep_fold hp]
    exact .inr ⟨rfl, rfl, rfl⟩

/-- R231, R302: an accepted transaction emits nothing, and while a block is in progress it leaves the engine alone. -/
theorem hostAccept_emits_nothing {s t : State} {T : Txn} (ha : s.accepts T = true) (h : hostAccept T s = .next t) :
    t.trace = s.trace ∧ (s.phase = .idle ∨ SameEngine s t) := by
  rcases hostAccept_cases ha h with ⟨r, rfl⟩ | ⟨hp, c, info, -, -, rfl⟩ | ⟨hp, -, i, -, hacc⟩
  · exact ⟨rfl, .inr (by simp [SameEngine])⟩
  · exact ⟨raiseFault_trace c info s, .inl hp⟩
  · refine ⟨?_, .inl hp⟩
    cases hacc <;> simp

/-- Settles O36: of the ways a step can go, only the engine's step of a block in progress emits. -/
theorem traceGrowsByEngineStepsOnly : Obligations.TraceGrowsByEngineStepsOnly := by
  intro s t h
  rcases step_cases h with ⟨rest, hs, rfl⟩ | ⟨-, s', hprep, hnr, hmove⟩
  · exact .inl ⟨rfl, .inl (by simp [hs])⟩
  have hresp := hprep.responses_eq
  obtain ⟨hsame, -⟩ := hprep
  have ⟨_, _, _, _, _, hphase, hrnd, _, _, hblk, _, htrace⟩ := hsame
  obtain rfl | rfl | ⟨T, -, ha, hacc⟩ := hmove
  · exact .inl ⟨htrace.symm, .inr (.inr hsame)⟩
  · by_cases hp : s'.phase = .idle
    · rw [engineStep_idle hp]
      exact .inl ⟨htrace.symm, .inr (.inr hsame)⟩
    · rw [hphase, hrnd, hblk, htrace]
      exact .inr ⟨hnr, hsame.engineStep, (engineStep_responses s').trans hresp, engineStep_emits hp⟩
  · obtain ⟨hkeep, hengine⟩ := hostAccept_emits_nothing ha hacc
    exact .inl ⟨hkeep.trans htrace.symm, .inr (hengine.imp hphase.trans hsame.trans)⟩

/-! The wire packing -/

/-- R301: a packed record by its fields: the tag, BLK, the round and the eight words. -/
def packFields (tag : BitVec 1) (blk : BitVec 64) (j : BitVec 6) (v : Vector Word 8) : BitVec 327 :=
  tag ++ blk ++ j ++ packWords v

theorem pack_roundSnap (blk : BitVec 64) (j : BitVec 6) (r : WorkRegs) :
    (Snap.roundSnap blk j r).pack = packFields 0 blk j r.toVec := rfl

theorem pack_blockSnap (blk : BitVec 64) (d : Digest) : (Snap.blockSnap blk d).pack = packFields 1 blk 0 d := rfl

/-- R301: the words of a record lie in their order, the first at the top: below word i lie the 7 - i after it. -/
theorem packWords_word (v : Vector Word 8) (i : Fin 8) : (packWords v).extractLsb' (32 * (7 - i.val)) 32 = v[i] := by
  unfold packWords
  fin_cases i <;> repeat rw [BitVec.extractLsb'_append_eq_of_le (by decide)]
  · exact BitVec.extractLsb'_eq_self
  all_goals exact BitVec.extractLsb'_append_eq_right

section
variable (tag : BitVec 1) (blk : BitVec 64) (j : BitVec 6) (v : Vector Word 8)

theorem packFields_tag : (packFields tag blk j v).getLsbD 326 = tag.getLsbD 0 := by
  rw [packFields, BitVec.getLsbD_append, BitVec.getLsbD_append, BitVec.getLsbD_append]
  rfl

theorem packFields_blk : (packFields tag blk j v).extractLsb' 262 64 = blk := by
  rw [packFields, BitVec.extractLsb'_append_eq_of_le (by decide), BitVec.extractLsb'_append_eq_of_le (by decide)]
  exact BitVec.extractLsb'_append_eq_right

theorem packFields_round : (packFields tag blk j v).extractLsb' 256 6 = j := by
  rw [packFields, BitVec.extractLsb'_append_eq_of_le (by decide)]
  exact BitVec.extractLsb'_append_eq_right

theorem packFields_word (i : Fin 8) : (packFields tag blk j v).extractLsb' (32 * (7 - i.val)) 32 = v[i] := by
  rw [packFields, BitVec.extractLsb'_append_eq_of_add_le (by omega), packWords_word]

end

/-- R301: a packing is read back field by field. -/
theorem packFields_inj {tag tag' : BitVec 1} {blk blk' : BitVec 64} {j j' : BitVec 6} {v v' : Vector Word 8}
    (h : packFields tag blk j v = packFields tag' blk' j' v') :
    tag.getLsbD 0 = tag'.getLsbD 0 ∧ blk = blk' ∧ j = j' ∧ v = v' := by
  refine ⟨?_, ?_, ?_, Vector.ext fun i hi => ?_⟩
  · rw [← packFields_tag tag blk j v, h, packFields_tag]
  · rw [← packFields_blk tag blk j v, h, packFields_blk]
  · rw [← packFields_round tag blk j v, h, packFields_round]
  · have hword := packFields_word tag blk j v ⟨i, hi⟩
    rw [h, packFields_word] at hword
    exact hword.symm

theorem toVec_injective : Function.Injective WorkRegs.toVec := by
  intro r r' h
  cases r
  cases r'
  simpa [WorkRegs.toVec] using h

/-- R301: the tag parts the two kinds of records, and the fields the records of one kind. -/
theorem pack_injective : Function.Injective Snap.pack := by
  intro x y h
  cases x with
  | roundSnap blk j r =>
    cases y with
    | roundSnap blk' j' r' =>
      rw [pack_roundSnap, pack_roundSnap] at h
      obtain ⟨-, hblk, hj, hv⟩ := packFields_inj h
      rw [hblk, hj, toVec_injective hv]
    | blockSnap blk' d' =>
      rw [pack_roundSnap, pack_blockSnap] at h
      obtain ⟨htag, -⟩ := packFields_inj h
      cases htag
  | blockSnap blk d =>
    cases y with
    | roundSnap blk' j' r' =>
      rw [pack_blockSnap, pack_roundSnap] at h
      obtain ⟨htag, -⟩ := packFields_inj h
      cases htag
    | blockSnap blk' d' =>
      rw [pack_blockSnap, pack_blockSnap] at h
      obtain ⟨-, hblk, -, hv⟩ := packFields_inj h
      rw [hblk, hv]

/-- Settles O49: the fields of `packFields` are those of both kinds of records. -/
theorem tracePackingLosesNothing : Obligations.TracePackingLosesNothing := by
  refine ⟨fun x y => pack_injective.ne, fun blk j r => ?_, fun blk d => ?_, by decide, by decide, fun v => ?_, rfl, rfl⟩
  · exact ⟨packFields_tag 0 blk j r.toVec, packFields_blk _ _ _ _, packFields_round _ _ _ _, packFields_word _ _ _ _⟩
  · exact ⟨packFields_tag 1 blk 0 d, packFields_blk _ _ _ _, packFields_round _ _ _ _, packFields_word _ _ _ _⟩
  · rw [Resp.bits, BitVec.toNat_append]
    simp

end Sys2Proof.Machine
end

section
/-! PROOFS. Reset (70_reset_and_hazards.md rules R320 and R322) and the number of transactions of HASH (R342). -/

namespace Sys2Proof.Machine

/-- R322: a reset with nothing on the port changes only what the spec leaves unspecified, and the free values' index. -/
theorem resetEvent_resetEvent (s : State) :
    s.resetEvent.resetEvent =
      { s.resetEvent with
        wr := s.resetEvent.resetEvent.wr
        msg := s.resetEvent.resetEvent.msg
        w := s.resetEvent.resetEvent.w
        free := s.resetEvent.resetEvent.free } := rfl

/-- Settles O25: the step is `State.resetEvent`, and so is a second one. -/
theorem resetEffect : Obligations.ResetEffect := by
  intro s rest hs
  refine ⟨_, step_reset hs, rfl, rfl, rfl, rfl, rfl, rfl, rfl, rfl, rfl, rfl, rfl, rfl, rfl, ?_,
    _, step_reset rfl, resetEvent_resetEvent { s with sched := rest }⟩
  cases s.pending <;> simp

theorem length_loadBlockOps (b : Block) : (loadBlockOps b).length = 16 := by simp [loadBlockOps]

theorem length_readDigestOps : readDigestOps.length = 8 := by simp [readDigestOps]

theorem length_pad (m : List Byte) : (pad m).length = blockCount m.length := by simp [pad]

/-- Settles O46: INIT, seventeen transactions a block, and the eight reads. -/
theorem hashProgramLength : Obligations.HashProgramLength := by
  intro m
  have hblock : ∀ b : Block, (loadBlockOps b ++ [HostOp.ofInstr .compress]).length = 17 := fun b => by
    rw [List.length_append, length_loadBlockOps, List.length_singleton]
  rw [hashOps, List.length_cons, List.length_append, List.length_flatMap, length_readDigestOps]
  simp only [hblock, List.map_const', List.sum_replicate, length_pad, blockCount, smul_eq_mul]
  omega

end Sys2Proof.Machine
end

section
/-! PROOFS. Weak fairness (70_reset_and_hazards.md rule R341): with no reset to come, the turns the host may have before
the engine's next step run out, and so do the engine's steps of a block and the host's program. -/

namespace Sys2Proof.Machine

/-- The machine after its first reset, with no other to come. -/
structure Live (s : State) : Prop where
  booted : s.booted = true
  noReset : s.noReset

theorem Live.congr {s t : State} (h : Live s) (hb : t.booted = s.booted) (hs : t.sched = s.sched) : Live t :=
  ⟨hb.trans h.booted, by rw [State.noReset, hs]; exact h.noReset⟩

theorem Live.takeTurn {s : State} (h : Live s) : Live s.takeTurn.2 :=
  ⟨(takeTurn_booted s).trans h.booted, (takeTurn_noReset h.noReset).1⟩

theorem Live.issueNext {s : State} (h : Live s) : Live s.issueNext := h.congr (issueNext_booted s) (issueNext_sched s)

/-! The turns before the engine's next step -/

/-- The turns that may come before an enabled engine step is taken: the schedule's, and after it the host's (log 4 and
5). -/
def turnsLeft (s : State) : ℕ ×ₗ ℕ := toLex (s.sched.length, s.hostLead)

theorem turnsLeft_congr {s t : State} (hs : t.sched = s.sched) (hl : t.lead = s.lead) (hf : t.free = s.free) :
    turnsLeft t = turnsLeft s := by
  simp only [turnsLeft, State.hostLead, hs, hl, hf]

theorem turnsLeft_issueNext (s : State) : turnsLeft s.issueNext = turnsLeft s :=
  turnsLeft_congr (issueNext_sched s) (issueNext_lead s) (issueNext_free s)

/-- R341: a turn is the engine's, or it uses up one of the turns before the engine's; or it is the host's in IDLE. -/
theorem takeTurn_uses_turn (s : State) :
    turnsLeft s.takeTurn.2 < turnsLeft s ∨ s.takeTurn.1 = .engine ∨ (s.phase = .idle ∧ s.takeTurn.1 = .host) := by
  cases hs : s.sched with
  | cons x rest =>
    left
    rw [takeTurn_cons hs, turnsLeft, turnsLeft, hs, Prod.Lex.toLex_lt_toLex]
    exact .inl (Nat.lt_succ_self _)
  | nil =>
    cases hz : s.busy with
    | false => exact .inr (.inr ⟨(busy_false_iff s).1 hz, by simp [State.takeTurn, hs, hz]⟩)
    | true =>
      cases hl : s.hostLead with
      | zero => exact .inr (.inl (by simp [State.takeTurn, hs, hz, hl]))
      | succ n =>
        left
        have hturn : s.takeTurn.2 = { s with lead := some n, free := s.free + 1 } := by
          simp [State.takeTurn, hs, hz, hl]
        rw [hturn, turnsLeft, turnsLeft, hl, hostLead_of_lead rfl, Prod.Lex.toLex_lt_toLex]
        exact .inr ⟨rfl, Nat.lt_succ_self n⟩

/-! The work of the host -/

/-- What the port may still cost the host: its own answer for a poll on it, one poll more for any other transaction, whose
answer may have bit 0 set, and with the port free the poll that the last answer calls for (R122). -/
def portWork (answers : List Resp) : Option Txn → Nat
  | some t => if isRdStatus t then 1 else 2
  | none => if lastBusyBit answers then 1 else 0

theorem portWork_none_le (answers : List Resp) : portWork answers none ≤ 1 := by
  rw [portWork]
  split <;> omega

theorem portWork_some_le (answers : List Resp) (t : Txn) : portWork answers (some t) ≤ 2 := by
  rw [portWork]
  split <;> omega

/-- The entries of a host program that each start something new: all but the feet of WAITIDLE loops. -/
def starts (ops : List HostOp) : Nat := ops.countP (· ≠ .loopIfBusy)

/-- The work left to the host. A poll that reads BUSY = 1 leaves it as it was, and every other answer lowers it. -/
def hostWork (s : State) : Nat := 2 * starts s.program + portWork s.responses s.pending

theorem starts_txn (t : Txn) (ops : List HostOp) : starts (.txn t :: ops) = starts ops + 1 := by
  simp [starts]

theorem starts_waitIdle (ops : List HostOp) : starts (.waitIdle :: ops) = starts ops + 1 := by
  simp [starts]

theorem starts_loopIfBusy (ops : List HostOp) : starts (.loopIfBusy :: ops) = starts ops := by
  simp [starts]

theorem portWork_rdstatus (answers : List Resp) : portWork answers (some (encode .rdstatus)) = 1 := by
  rw [portWork, if_pos (by decide)]

/-- R122, R230: what is issued is no more work than its entry of the program was. -/
theorem nextIssue_work_le (answers : List Resp) (ops : List HostOp) :
    2 * starts (nextIssue answers ops).2 + portWork answers (nextIssue answers ops).1 ≤
      2 * starts ops + portWork answers none := by
  induction ops with
  | nil => exact le_rfl
  | cons op rest ih =>
    cases op with
    | txn t =>
      have ht := portWork_some_le answers t
      rw [nextIssue, starts_txn]
      dsimp only
      omega
    | waitIdle =>
      rw [nextIssue, starts_waitIdle, starts_loopIfBusy, portWork_rdstatus]
      omega
    | loopIfBusy =>
      rw [nextIssue, starts_loopIfBusy]
      split
      case isTrue hbusy => rw [starts_loopIfBusy, portWork_rdstatus, portWork, if_pos hbusy]
      case isFalse => exact ih

theorem hostWork_issueNext_le (s : State) : hostWork s.issueNext ≤ hostWork s := by
  cases hp : s.pending with
  | some t => rw [issueNext_of_pending hp]
  | none =>
    have hwork := nextIssue_work_le s.responses s.program
    simpa only [hostWork, State.issueNext, hp] using hwork

/-- R230: a host with nothing to issue has come to the end of its program. -/
theorem program_nil_of_nextIssue_none {answers : List Resp} {ops : List HostOp}
    (h : (nextIssue answers ops).1 = none) : (nextIssue answers ops).2 = [] := by
  induction ops with
  | nil => rfl
  | cons op rest ih =>
    cases op with
    | txn t => cases h
    | waitIdle => cases h
    | loopIfBusy =>
      rw [nextIssue] at h ⊢
      split at h
      case isTrue => cases h
      case isFalse hlast =>
        rw [if_neg hlast]
        exact ih h

theorem issueNext_program_nil {s : State} (h : s.issueNext.pending = none) : s.issueNext.program = [] := by
  cases hp : s.pending with
  | some t =>
    rw [issueNext_pending_of_pending hp] at h
    cases h
  | none =>
    simp only [State.issueNext, hp] at h ⊢
    exact program_nil_of_nextIssue_none h

/-! What acceptance leaves of the host's work -/

/-- R254: an accepted transaction leaves the host's program and the turns to come alone. -/
theorem hostAccept_keeps_host {s t : State} {T : Txn} (ha : s.accepts T = true) (h : hostAccept T s = .next t) :
    t.booted = s.booted ∧ t.sched = s.sched ∧ t.program = s.program := by
  rcases hostAccept_cases ha h with ⟨r, rfl⟩ | ⟨-, c, info, -, -, rfl⟩ | ⟨-, -, i, -, hacc⟩
  · exact ⟨rfl, rfl, rfl⟩
  · simp
  · cases hacc <;> simp

theorem Live.hostAccept {s t : State} {T : Txn} (h : Live s) (ha : s.accepts T = true)
    (hacc : hostAccept T s = .next t) : Live t := by
  obtain ⟨hb, hs, -⟩ := hostAccept_keeps_host ha hacc
  exact h.congr hb hs

/-- R231, R238: what a busy engine accepts is RDSTATUS, which it answers with STATUS. -/
theorem hostAccept_busy {s : State} {T : Txn} (hz : s.busy = true) (ha : s.accepts T = true) :
    isRdStatus T = true ∧ hostAccept T s = .next (s.respond (.okData s.status)) := by
  have ht : isRdStatus T = true := ((accepts_iff s T).1 ha).resolve_left ((busy_true_iff s).1 hz)
  exact ⟨ht, hostAccept_instr (decode_of_isRdStatus ht) s⟩

theorem hostWork_of_pending {s : State} {T : Txn} (hp : s.pending = some T) :
    hostWork s = 2 * starts s.program + if isRdStatus T then 1 else 2 := by
  rw [hostWork, hp, portWork]

/-- R122: after a poll that reads BUSY = 1 the host may poll once more. -/
theorem hostWork_respond_status_le {s : State} {T : Txn} (hp : s.pending = some T) (ht : isRdStatus T = true) :
    hostWork (s.respond (.okData s.status)) ≤ hostWork s := by
  have hport := portWork_none_le (s.respond (.okData s.status)).responses
  rw [hostWork_of_pending hp, if_pos ht, hostWork, respond_program, respond_pending]
  omega

/-- R122, R232: an answer given in IDLE lowers the host's work: a poll reads BUSY = 0, and another answer is followed by
at most a poll. -/
theorem hostWork_hostAccept_lt {s t : State} {T : Txn} (hi : s.phase = .idle) (hp : s.pending = some T)
    (h : hostAccept T s = .next t) : hostWork t < hostWork s := by
  have ha : s.accepts T = true := (accepts_iff s T).2 (.inl hi)
  obtain ⟨-, -, hprog⟩ := hostAccept_keeps_host ha h
  obtain ⟨r, -, hnone⟩ := hostAccept_answers ha h
  rw [hostWork_of_pending hp, hostWork, hprog, hnone]
  cases ht : isRdStatus T with
  | true =>
    rw [hostAccept_instr (decode_of_isRdStatus ht)] at h
    cases h
    have hlast : lastBusyBit (s.responses ++ [.okData s.status]) = false := by
      rw [lastBusyBit, List.getLast?_concat]
      exact (status_busy s).trans ((busy_false_iff s).2 hi)
    simp [portWork, hlast]
  | false =>
    have hport := portWork_none_le t.responses
    simp only [Bool.false_eq_true, if_false]
    omega

/-! What a step can do -/

/-- The engine of s' is that of s, and the host has no more to do. -/
structure EngineWaits (s s' : State) : Prop where
  same : SameEngine s s'
  live : Live s'
  work : hostWork s' ≤ hostWork s

theorem engineWaits_takeTurn {s : State} (h : Live s) : EngineWaits s s.takeTurn.2 :=
  ⟨sameEngine_takeTurn s, h.takeTurn, by simp [hostWork]⟩

theorem EngineWaits.issueNext {s s' : State} (h : EngineWaits s s') : EngineWaits s s'.issueNext :=
  ⟨h.same.trans (sameEngine_issueNext s'), h.live.issueNext, (hostWork_issueNext_le s').trans h.work⟩

/-- R233, R341: what a step does with no reset to come: the engine moves; one of the turns before the engine's goes by;
an answer is given in IDLE; or the host's program is done. -/
inductive Advance (s : State) : State → Prop where
  | engine {s' : State} (hz : s.busy = true) (hs : EngineWaits s s') : Advance s s'.engineStep
  | turn {t : State} (hs : EngineWaits s t) (hturn : turnsLeft t < turnsLeft s) : Advance s t
  | answer {t : State} (hi : s.phase = .idle) (hl : Live t) (hwork : hostWork t < hostWork s) : Advance s t
  | done {t : State} (hi : s.phase = .idle) (hl : Live t) (hf : t.final = true) : Advance s t

theorem Advance.live {s t : State} (h : Advance s t) : Live t := by
  cases h with
  | engine hz hs => exact hs.live.congr (engineStep_booted _) (engineStep_sched _)
  | turn hs hturn => exact hs.live
  | answer hi hl hwork => exact hl
  | done hi hl hf => exact hl

theorem advance_hostAccept {s s' t : State} {T : Txn} (hs : EngineWaits s s')
    (hturn : s.busy = true → turnsLeft s' < turnsLeft s) (hp : s'.pending = some T) (ha : s'.accepts T = true)
    (h : hostAccept T s' = .next t) : Advance s t := by
  cases hz : s.busy with
  | true =>
    obtain ⟨ht, hanswer⟩ := hostAccept_busy (hs.same.busy_eq.trans hz) ha
    cases hanswer.symm.trans h
    exact .turn ⟨hs.same, hs.live.congr rfl rfl, (hostWork_respond_status_le hp ht).trans hs.work⟩ (hturn hz)
  | false =>
    have hi := (busy_false_iff s).1 hz
    exact .answer hi (hs.live.hostAccept ha h)
      ((hostWork_hostAccept_lt (hs.same.phase_eq.trans hi) hp h).trans_le hs.work)

/-- R230: issuing first changes nothing of the host's turn. -/
theorem hostTurn_issueNext {s : State} {T : Txn} (hp : s.issueNext.pending = some T) :
    hostTurn s = hostTurn s.issueNext := by
  rw [hostTurn, hostTurn, issueNext_of_pending hp]

/-- R233: with nothing to offer the host's turn is the engine's. -/
theorem hostTurn_nothing {s : State} (hp : s.issueNext.pending = none) :
    hostTurn s = .next s.issueNext.engineStep := by
  rw [hostTurn, hp]

/-- R254: an idle engine with nothing on the port, and no program. -/
theorem final_issueNext {s : State} (hi : s.phase = .idle) (hp : s.issueNext.pending = none) :
    s.issueNext.final = true := by
  have hidle : s.issueNext.busy = false := (busy_false_iff _).2 ((issueNext_phase s).trans hi)
  simp [State.final, hp, issueNext_program_nil hp, hidle]

/-- A host's turn, where for a busy engine one of the turns before its own has gone by. -/
theorem advance_hostTurn {s s' : State} (hs : EngineWaits s s') (hturn : s.busy = true → turnsLeft s' < turnsLeft s) :
    ∃ t, hostTurn s' = .next t ∧ Advance s t := by
  have hissue := hs.issueNext
  cases hp : s'.issueNext.pending with
  | none =>
    refine ⟨_, hostTurn_nothing hp, ?_⟩
    cases hz : s.busy with
    | true => exact .engine hz hissue
    | false =>
      have hi := (busy_false_iff s).1 hz
      have hi' := hs.same.phase_eq.trans hi
      rw [engineStep_idle ((issueNext_phase s').trans hi')]
      exact .done hi hissue.live (final_issueNext hi' hp)
  | some T =>
    rw [hostTurn_issueNext hp]
    cases ha : s'.issueNext.accepts T with
    | true =>
      obtain ⟨t, ht⟩ := hostAccept_next T s'.issueNext
      exact ⟨t, (hostTurn_accepts hp ha).trans ht,
        advance_hostAccept hissue (by rwa [turnsLeft_issueNext]) hp ha ht⟩
    | false =>
      obtain ⟨hz, -⟩ : s'.issueNext.busy = true ∧ isRdStatus T = false := by simpa [State.accepts] using ha
      exact ⟨_, hostTurn_holds hp ha, .engine (hissue.same.busy_eq.symm.trans hz) hissue⟩

/-- R233: whoever's turn it is, a step advances. -/
theorem live_step_advances {s : State} (h : Live s) : ∃ t, step s = .next t ∧ Advance s t := by
  have hs := engineWaits_takeTurn h
  have hboot := hs.live.booted
  have huse := takeTurn_uses_turn s
  unfold step
  cases hT : s.takeTurn.1 with
  | reset => exact absurd hT (takeTurn_noReset h.noReset).2
  | host =>
    rw [runTurn, if_pos hboot]
    refine advance_hostTurn hs fun hz => ?_
    simpa [hT, (busy_true_iff s).1 hz] using huse
  | engine =>
    rw [runTurn, if_pos hboot, engineTurn]
    cases hz : s.busy with
    | true =>
      rw [if_pos (hs.same.busy_eq.trans hz)]
      exact ⟨_, rfl, .engine hz hs⟩
    | false =>
      rw [hs.same.busy_eq, hz]
      exact advance_hostTurn hs fun hbusy => absurd (hz.symm.trans hbusy) (by simp)
  | issue =>
    have hturn : turnsLeft s.takeTurn.2 < turnsLeft s := by simpa [hT] using huse
    rw [runTurn, if_pos hboot, issueTurn]
    split
    case isTrue => exact ⟨_, rfl, .turn hs.issueNext (by rwa [turnsLeft_issueNext])⟩
    case isFalse => exact advance_hostTurn hs fun _ => hturn

/-! The engine's next step -/

theorem Live.reaches_engineStep {s : State} (h : Live s) (hz : s.busy = true) :
    ∃ u, Reaches s u ∧ SameEngine s.engineStep u := by
  induction hk : turnsLeft s using WellFoundedLT.induction generalizing s with
  | ind k ih =>
    obtain ⟨t, hstep, hadv⟩ := live_step_advances h
    have hidle := (busy_true_iff s).1 hz
    have hlive := hadv.live
    cases hadv with
    | engine _ hs => exact ⟨_, .of_step hstep, hs.same.engineStep⟩
    | turn hs hturn =>
      obtain ⟨u, hu, hsame⟩ := ih _ (hk ▸ hturn) hlive (hs.same.busy_eq.trans hz) rfl
      exact ⟨u, (Reaches.of_step hstep).trans hu, hs.same.engineStep.trans hsame⟩
    | answer hi => exact absurd hi hidle
    | done hi => exact absurd hi hidle

/-- Settles O51: the turns before the engine's run out. -/
theorem enabledEngineStepIsTaken : Obligations.EnabledEngineStepIsTaken := by
  intro s hb hn hz
  obtain ⟨u, ⟨n, hrun⟩, hsame⟩ := Live.reaches_engineStep ⟨hb, hn⟩ ((busy_true_iff s).2 hz)
  exact ⟨n, u, hrun, hsame⟩

/-! The end of the host's program -/

/-- What is left before the end: the host's work first, then the engine's steps of the block in progress, then the turns
before its next one. -/
def workLeft (s : State) : ℕ ×ₗ ℕ ×ₗ ℕ ×ₗ ℕ := toLex (hostWork s, toLex (stepsLeft s, turnsLeft s))

theorem workLeft_lt_of_hostWork {s t : State} (h : hostWork t < hostWork s) : workLeft t < workLeft s :=
  Prod.Lex.toLex_lt_toLex.2 (.inl h)

theorem workLeft_lt_of_stepsLeft {s t : State} (hw : hostWork t ≤ hostWork s) (h : stepsLeft t < stepsLeft s) :
    workLeft t < workLeft s :=
  Prod.Lex.toLex_lt_toLex'.2 ⟨hw, fun _ => Prod.Lex.toLex_lt_toLex.2 (.inl h)⟩

theorem workLeft_lt_of_turnsLeft {s t : State} (hw : hostWork t ≤ hostWork s) (hk : stepsLeft t = stepsLeft s)
    (h : turnsLeft t < turnsLeft s) : workLeft t < workLeft s :=
  Prod.Lex.toLex_lt_toLex'.2 ⟨hw, fun _ => Prod.Lex.toLex_lt_toLex.2 (.inr ⟨hk, h⟩)⟩

theorem hostWork_engineStep (s : State) : hostWork s.engineStep = hostWork s := by
  simp [hostWork]

theorem stepsLeft_engineStep_lt {s : State} (hz : s.busy = true) : stepsLeft s.engineStep < stepsLeft s := by
  obtain ⟨k, hk⟩ := Nat.exists_eq_succ_of_ne_zero (mt (stepsLeft_eq_zero_iff s).1 ((busy_true_iff s).1 hz))
  rw [stepsLeft_engineStep hk, hk]
  exact Nat.lt_succ_self k

theorem Advance.final_or_workLeft_lt {s t : State} (h : Advance s t) : t.final = true ∨ workLeft t < workLeft s := by
  cases h with
  | @engine s' hz hs =>
    refine .inr (workLeft_lt_of_stepsLeft ((hostWork_engineStep s').trans_le hs.work) ?_)
    rw [← hs.same.stepsLeft_eq]
    exact stepsLeft_engineStep_lt (hs.same.busy_eq.trans hz)
  | turn hs hturn => exact .inr (workLeft_lt_of_turnsLeft hs.work hs.same.stepsLeft_eq hturn)
  | answer hi hl hwork => exact .inr (workLeft_lt_of_hostWork hwork)
  | done hi hl hf => exact .inl hf

theorem Live.reaches_final {s : State} (h : Live s) : ∃ u, Reaches s u ∧ u.final = true := by
  induction hk : workLeft s using WellFoundedLT.induction generalizing s with
  | ind k ih =>
    obtain ⟨t, hstep, hadv⟩ := live_step_advances h
    rcases hadv.final_or_workLeft_lt with hfinal | hlt
    · exact ⟨t, .of_step hstep, hfinal⟩
    · obtain ⟨u, hu, hfinal⟩ := ih _ (hk ▸ hlt) hadv.live rfl
      exact ⟨u, (Reaches.of_step hstep).trans hu, hfinal⟩

/-- Settles O52: each step that does not end the program leaves less to be done. -/
theorem everyHostProgramEnds : Obligations.EveryHostProgramEnds := by
  intro s hb hn
  obtain ⟨u, ⟨n, hrun⟩, hfinal⟩ := Live.reaches_final ⟨hb, hn⟩
  exact ⟨n, u, hrun, hfinal⟩

end Sys2Proof.Machine
end
